-- ==== Sys2Proof/Word.lean ====
section
/-! DEFINITION. The widths of the block's words (spec/10_state.md R20, spec/30_encoding.md R57). -/

namespace Sys2Proof

/-- A 32-bit word: a command (R57), an accumulator (R21, R22) or `RESULT` (R27). -/
abbrev Word := BitVec 32

/-- One unit: a byte given to `ACC` (R10, R80). -/
abbrev Byte := BitVec 8

/-- One 16-bit `DATA` field: an input element (R57, R60). -/
abbrev Elem := BitVec 16

/-- The block counter `CNT` (R23). -/
abbrev Count := BitVec 12

/-- The latched ten bits of a lead code unit (R26). -/
abbrev LeadBits := BitVec 10

/-- A code point assembled from a surrogate pair: at most 0x10FFFF, so 21 bits (R117). -/
abbrev CodePoint := BitVec 21

end Sys2Proof
end

