-- ==== Sys2Proof/Syntax.lean ====
section
/-! DEFINITION. The commands of ADLER32-CMD v1 (spec/30_encoding.md R58, R67) and the assembler's lines (R68, R69). -/

namespace Sys2Proof

/-- The values of the 2-bit `MODE` register (R24). All four codes are used. -/
inductive Mode where
  | idle
  | bytes
  | bstr
  | text
  deriving DecidableEq, Repr

/-- One accepted command: one constructor for each row of spec/opcode_table.json (R67). DEDUCED (log entry 11;
safe): START is three of them. -/
inductive Instr where
  /-- `NOP h`: a hint with no meaning (R62, R88). -/
  | nop (hint : Elem)
  /-- `START BYTES` (R89, MSEL = 1). -/
  | startBytes
  /-- `START BSTR` (R89, MSEL = 2). -/
  | startBstr
  /-- `START TEXT` (R89, MSEL = 3). -/
  | startText
  /-- `FEED d`: one input element (R60, R100). -/
  | feed (data : Elem)
  /-- `FINISH` (R90). -/
  | finish
  deriving DecidableEq, Repr

/-- Why `decode` refuses a command (R66, R132). All have the same effect (R133). -/
inductive RefuseReason where
  /-- `OP` ≥ 0x4. -/
  | reservedOp
  /-- `RSV` ≠ 0. -/
  | reservedBits
  /-- START with `MSEL` = 0 or `DATA[15:2]` ≠ 0. -/
  | badStart
  /-- FINISH with `DATA` ≠ 0. -/
  | badFinish
  /-- FEED or FINISH while `MODE` = IDLE. -/
  | noMessage
  deriving DecidableEq, Repr

/-- What decoding answers: a command or a named refusal (R66). -/
inductive Decoded where
  | accepted (i : Instr)
  | refused (r : RefuseReason)
  deriving DecidableEq, Repr

/-- One line of assembly: the commands of R68, the pseudo-commands of R69, and the raw word of
spec/95_test_vectors.md P3. Operands are numbers as written; `WellFormed` checks their range. -/
inductive AsmLine where
  /-- `NOP` or `NOP <imm16>`. -/
  | nop (hint : Nat)
  /-- `START BYTES`, `START BSTR` or `START TEXT`. -/
  | start (m : Mode)
  /-- `FEED <imm16>`. -/
  | feed (v : Nat)
  /-- `FINISH`. -/
  | finish
  /-- `FEEDS v0, ..., vn-1` (R69). -/
  | feeds (vs : List Nat)
  /-- `CHECKSUM_BYTES`, `CHECKSUM_BSTR` or `CHECKSUM_TEXT` with its elements (R69). -/
  | checksum (m : Mode) (vs : List Nat)
  /-- `FEEDSTR "s"` (R69). -/
  | feedStr (s : List Char)
  /-- `.word w`: a raw command word, not a mnemonic (95 P3). -/
  | rawWord (w : Nat)
  deriving DecidableEq, Repr

end Sys2Proof
end

