-- ==== Sys2Proof/WellFormed.lean ====
section
/-! DEFINITION. Which terms are commands and which assembly lines are legal (spec/30_encoding.md R63, R68). -/

namespace Sys2Proof

/-- Every term of `Instr` is a command of the block: the operands of NOP and FEED are 16-bit fields
of which every value is accepted (R60, R62), and the other commands have no operand (R59, R61). The
illegal words of R63 are no terms of `Instr`; the decoder refuses them by name. -/
def Instr.wellFormed : Instr → Bool
  | .nop _ => true
  | .startBytes => true
  | .startBstr => true
  | .startText => true
  | .feed _ => true
  | .finish => true

/-- An `<imm16>` is a number from 0 to 65535; a value outside is an assembly error (R68). -/
def immOk (v : Nat) : Bool := decide (v ≤ 65535)

/-- A mode that START can open: IDLE is none (R59, `MSEL` = 0 is refused). -/
def Mode.opens : Mode → Bool
  | .idle => false
  | .bytes => true
  | .bstr => true
  | .text => true

/-- Whether the assembler accepts the line: the range of each `<imm16>`, the mode of START and of
CHECKSUM, the width of a raw word (R68, R69). Whether `FEEDSTR`'s characters fit depends on the open
mode and is checked where the line is expanded. -/
def AsmLine.wellFormed : AsmLine → Bool
  | .nop h => immOk h
  | .start m => m.opens
  | .feed v => immOk v
  | .finish => true
  | .feeds vs => vs.all immOk
  | .checksum m vs => m.opens && vs.all immOk
  | .feedStr _ => true
  | .rawWord w => decide (w < 4294967296)

end Sys2Proof
end

