-- ==== Sys2Proof/Decode.lean ====
section
/-! DEFINITION. Decoding, total on 32-bit words and rejecting by name, and the encoder (spec/30_encoding.md R57 to R67). -/

namespace Sys2Proof

/-- `OP` = `cmd[31:28]` (R57). -/
def opField (w : Word) : BitVec 4 := w.extractLsb' 28 4

/-- `RSV` = `cmd[27:16]` (R57). -/
def rsvField (w : Word) : BitVec 12 := w.extractLsb' 16 12

/-- `DATA` = `cmd[15:0]` (R57). -/
def dataField (w : Word) : Elem := w.extractLsb' 0 16

/-- The code of a mode: the `MODE` register's value (R24) and START's `MSEL` (R59), which are the same. -/
def Mode.code : Mode → BitVec 2
  | .idle => 0#2
  | .bytes => 1#2
  | .bstr => 2#2
  | .text => 3#2

/-- The word `OP` = 0x1, `RSV` = 0, `DATA` = `MSEL`: START of the mode, and for IDLE the word that R63
refuses (R59, R67). -/
def startWord (m : Mode) : Word := 0x10000000#32 ||| m.code.setWidth 32

/-- START's operand: `DATA[15:2]` must be 0 and `MSEL` = `DATA[1:0]` selects the mode; `MSEL` = 0 is
refused (R59, R66). -/
def decodeStart (d : Elem) : Decoded :=
  if d = 1#16 then .accepted .startBytes
  else if d = 2#16 then .accepted .startBstr
  else if d = 3#16 then .accepted .startText
  else .refused .badStart

/-- The part of decoding that does not depend on `MODE`: the encoding space of R63, in the order of
the lines of R66. -/
def decodeWord (w : Word) : Decoded :=
  if 4#4 ≤ opField w then .refused .reservedOp
  else if rsvField w ≠ 0#12 then .refused .reservedBits
  else if opField w = 0#4 then .accepted (.nop (dataField w))
  else if opField w = 1#4 then decodeStart (dataField w)
  else if opField w = 2#4 then .accepted (.feed (dataField w))
  else if dataField w ≠ 0#16 then .refused .badFinish
  else .accepted .finish

/-- FEED and FINISH are refused while no message is open (R66, R132). -/
def Instr.needsMessage : Instr → Bool
  | .nop _ => false
  | .startBytes => false
  | .startBstr => false
  | .startText => false
  | .feed _ => true
  | .finish => true

/-- `decode(w, MODE)` of R66. -/
def decode (w : Word) (m : Mode) : Decoded :=
  match decodeWord w with
  | .refused r => .refused r
  | .accepted i => if i.needsMessage = true ∧ m = .idle then .refused .noMessage else .accepted i

/-- The word of a command (R67). -/
def encode : Instr → Word
  | .nop h => 0x00000000#32 ||| h.setWidth 32
  | .startBytes => 0x10000001#32
  | .startBstr => 0x10000002#32
  | .startText => 0x10000003#32
  | .feed d => 0x20000000#32 ||| d.setWidth 32
  | .finish => 0x30000000#32

/-- One row of R67's table (and of spec/opcode_table.json): a word belongs to the row when it equals
`bits` under `mask`. -/
structure EncodingRow where
  mask : Word
  bits : Word
  deriving DecidableEq, Repr

/-- The row of R67 that a command's words belong to. -/
def Instr.row : Instr → EncodingRow
  | .nop _ => ⟨0xFFFF0000#32, 0x00000000#32⟩
  | .startBytes => ⟨0xFFFFFFFF#32, 0x10000001#32⟩
  | .startBstr => ⟨0xFFFFFFFF#32, 0x10000002#32⟩
  | .startText => ⟨0xFFFFFFFF#32, 0x10000003#32⟩
  | .feed _ => ⟨0xFFFF0000#32, 0x20000000#32⟩
  | .finish => ⟨0xFFFFFFFF#32, 0x30000000#32⟩

/-- The rows of R67, in the order of spec/opcode_table.json. -/
def encodingRows : List EncodingRow :=
  [⟨0xFFFF0000#32, 0x00000000#32⟩, ⟨0xFFFFFFFF#32, 0x10000001#32⟩, ⟨0xFFFFFFFF#32, 0x10000002#32⟩,
   ⟨0xFFFFFFFF#32, 0x10000003#32⟩, ⟨0xFFFF0000#32, 0x20000000#32⟩, ⟨0xFFFFFFFF#32, 0x30000000#32⟩]

/-- Whether a word belongs to a row. -/
def EncodingRow.selects (r : EncodingRow) (w : Word) : Bool := w &&& r.mask == r.bits

/-- The command word whose low `nbits` bits are those of `w`, the rest 0; `none` for more bits than a
command has (every command is exactly 32 bits, R65). -/
def tableWord (nbits w : Nat) : Option Word :=
  if nbits ≤ 32 then some (BitVec.ofNat 32 (w % 2 ^ nbits)) else none

/-- The command the decoder reads from a table row's bits; `none` where it refuses. A command is one
parallel word on the port (R55, R57), so there is no byte order. DESIGN CHOICE (log entry 10; unsafe). -/
def decodeTableWord (nbits w : Nat) : Option Instr :=
  match tableWord nbits w with
  | none => none
  | some v =>
    match decodeWord v with
    | .accepted i => some i
    | .refused _ => none

end Sys2Proof
end

