-- ==== Sys2Proof/Machine/Operands.lean ====
section
/-! DEFINITION. The operands of FEED (spec/30_encoding.md R64) and the UTF-8 bytes of each class of code unit
(spec/42_text_feed.md R111 to R117). -/

namespace Sys2Proof.Machine

/-- The byte operand in BYTES and BSTR modes: `v = DATA[7:0]` (R64, R101, R102). -/
def byteOperand (d : Elem) : Byte := d.extractLsb' 0 8

/-- `DATA[15:8]` ≠ 0: the element is outside 0..255 (R101, R102). -/
def outsideByteRange (d : Elem) : Bool := d.extractLsb' 8 8 != 0#8

/-- The one-byte class `u < 0x80` (R110, R111). -/
def isOneByte (u : Elem) : Bool := decide (u < 0x0080#16)

/-- The two-byte test `u < 0x800`, made after the one-byte test (R110, R111). -/
def isTwoByte (u : Elem) : Bool := decide (u < 0x0800#16)

/-- The source's surrogate test, 0xD800 ≤ u < 0xE000; it holds the low surrogates too (R111, 90 C6). -/
def isSurrogate (u : Elem) : Bool := decide (0xD800#16 ≤ u) && decide (u < 0xE000#16)

/-- The low-surrogate range 0xDC00 to 0xDFFF (R115, R116; the spec takes the range from general knowledge). PRESUMED
(by the spec, 93 G1; log entry 14; unsafe). -/
def isLowSurrogate (u : Elem) : Bool := decide (0xDC00#16 ≤ u) && decide (u < 0xE000#16)

/-- `ONE(u)` (R112). -/
def oneByte (u : Elem) : List Byte := [u.setWidth 8]

/-- `TWO(u)` (R113). -/
def twoBytes (u : Elem) : List Byte :=
  [0xC0#8 ||| (u >>> 6).setWidth 8, 0x80#8 ||| (u &&& 0x3F#16).setWidth 8]

/-- `THREE(u)` (R114). -/
def threeBytes (u : Elem) : List Byte :=
  [0xE0#8 ||| (u >>> 12).setWidth 8,
   0x80#8 ||| ((u >>> 6) &&& 0x3F#16).setWidth 8,
   0x80#8 ||| (u &&& 0x3F#16).setWidth 8]

/-- What `LEADIN` latches: `u & 0x3FF` (R115). -/
def leadBits (u : Elem) : LeadBits := u.setWidth 10

/-- `cp = 0x10000 + (LEAD << 10) + (t & 0x3FF)` (R117). PRESUMED (by the spec, 93 G2; log entry 14; unsafe). -/
def pairCodePoint (lead : LeadBits) (t : Elem) : CodePoint :=
  0x10000#21 + (lead.setWidth 21 <<< 10) + (t &&& 0x3FF#16).setWidth 21

/-- The four bytes of `EMIT4` (R117). -/
def fourBytes (cp : CodePoint) : List Byte :=
  [0xF0#8 ||| (cp >>> 18).setWidth 8,
   0x80#8 ||| ((cp >>> 12) &&& 0x3F#21).setWidth 8,
   0x80#8 ||| ((cp >>> 6) &&& 0x3F#21).setWidth 8,
   0x80#8 ||| (cp &&& 0x3F#21).setWidth 8]

/-- The bytes of a code unit that is no surrogate, by the class it falls into (R110, R111). -/
def plainBytes (u : Elem) : List Byte :=
  if isOneByte u then oneByte u else if isTwoByte u then twoBytes u else threeBytes u

end Sys2Proof.Machine
end

