-- ==== Sys2Proof/Config.lean ====
section
/-! DEFINITION. The fixed and the open parameters of the block (spec/00_scope.md R6). -/

namespace Sys2Proof.Config

/-- `MOD` (R6): the modulus of the final combination. -/
def modulus : Word := 65521#32

/-- `FOLD` (R6): 65536 - 65521. -/
def foldFactor : Word := 15#32

/-- `NBLOCK` (R6): units in one reduction block. -/
def blockLength : Count := 3850#12

/-- `INIT_A` (R6). -/
def initA : Word := 1#32

/-- `INIT_B` (R6). -/
def initB : Word := 0#32

/-- `RESET_STYLE` (R6, R152): left open by the spec. -/
structure ResetStyle where
  /-- `true`: reset acts at a clock edge only. `false`: it acts as soon as it is asserted. -/
  synchronous : Bool
  /-- `true`: reset is asserted while `rst` = 1. `false`: while `rst` = 0. -/
  activeHigh : Bool
  deriving DecidableEq, Repr

/-- The open parameters, which the model takes as arguments (R6). -/
structure OpenParams where
  /-- `CMD_LATENCY`: how many cycles `cmd_ready` stays 0 after the n-th acceptance; it may differ
  from command to command (R158). -/
  cmdLatency : Nat → Nat
  resetStyle : ResetStyle

end Sys2Proof.Config
end

