-- ==== Sys2Proof/Machine/State.lean ====
section
/-! DEFINITION. The block's state (spec/10_state.md R20), its reset values (R35), and the reasons a step could stop. -/

namespace Sys2Proof.Machine

/-- What the host does to the block at one step of the untimed model (R7, R34, R56, R150). -/
inductive HostEvent where
  /-- A command word presented and accepted (R56). -/
  | command (w : Word)
  /-- `cmd_valid` = 0: no command presented (R56). -/
  | idle
  /-- Reset, an atomic event between two steps (R150, R152). -/
  | reset
  deriving DecidableEq, Repr

/-- The ten elements of R20, and the host's coming events. -/
structure State where
  /-- `A`, the running sum (R21). -/
  a : Word
  /-- `B`, the running sum of sums (R22). -/
  b : Word
  /-- `CNT`, units in the current block (R23). -/
  cnt : Count
  /-- `MODE` (R24). -/
  mode : Mode
  /-- `PEND`: a lead waits for its trail (R25). -/
  pend : Bool
  /-- `LEAD`: the pending lead's low ten bits (R26). -/
  lead : LeadBits
  /-- `RESULT` (R27). -/
  result : Word
  /-- `DONE` (R28). -/
  done : Bool
  /-- `ILL`, sticky (R29). -/
  ill : Bool
  /-- `INV` (R30). -/
  inv : Bool
  /-- DESIGN CHOICE (log entry 1; unsafe): not the block's. What the host will do next, oldest first
  (R34: the next command is whatever the host presents next). -/
  input : List HostEvent
  deriving DecidableEq, Repr

/-- There is no fault: the block raises no exception, takes no trap, and no condition makes it stop
(spec/60_exceptions.md R130). A refused command sets ILL and the machine goes on (R133). DEDUCED (log
entries 3 and 4; safe). -/
inductive Fault where
  deriving DecidableEq, Repr

/-- Why the model itself could have no meaning for a command. -/
inductive Refusal where
  /-- Raised by an arm of `exec` whose instruction has no meaning yet. No arm raises it. Safe. -/
  | notModelled (mnemonic : String)
  deriving DecidableEq, Repr

/-- The state right after reset (R35): `A` = 1, every other element 0, no message open. The host's
events are not the block's; none is placed (log entry 1). -/
def State.reset : State where
  a := 1#32
  b := 0#32
  cnt := 0#12
  mode := .idle
  pend := false
  lead := 0#10
  result := 0#32
  done := false
  ill := false
  inv := false
  input := []

end Sys2Proof.Machine
end

