-- ==== Sys2Proof/Machine/Flags.lean ====
section
/-! DEFINITION. The status flags and the ports that show them (spec/10_state.md R27 to R31, spec/60_exceptions.md R133, R134). -/

namespace Sys2Proof.Machine

/-- `set ILL` (R29, R133). -/
def setIll (s : State) : State := { s with ill := true }

/-- `set INV` when the condition holds; otherwise INV keeps its value (R30, R134). -/
def setInvIf (c : Bool) (s : State) : State := { s with inv := s.inv || c }

/-- INV's condition for a lead: a low surrogate used as a lead (R115). -/
def invLead (u : Elem) : Bool := isLowSurrogate u

/-- INV's condition for a trail: not a low surrogate (R116). -/
def invTrail (t : Elem) : Bool := !isLowSurrogate t

/-- The `status[7:0]` port: bits 7:6 reserved 0, 5:4 MODE, 3 PEND, 2 INV, 1 ILL, 0 DONE (R31). -/
def statusPort (s : State) : BitVec 8 :=
  (s.mode.code.setWidth 8 <<< 4) ||| ((BitVec.ofBool s.pend).setWidth 8 <<< 3)
    ||| ((BitVec.ofBool s.inv).setWidth 8 <<< 2) ||| ((BitVec.ofBool s.ill).setWidth 8 <<< 1)
    ||| (BitVec.ofBool s.done).setWidth 8

/-- The `result[31:0]` port drives RESULT at all times (R27). -/
def resultPort (s : State) : Word := s.result

end Sys2Proof.Machine
end

