-- ==== Sys2Proof/Machine/Ops.lean ====
section
/-! DEFINITION. The shared operations: refusing a command (spec/60_exceptions.md R133), the engine's ACC, REDUCE and FINAL
(spec/40_core_engine.md R80, R82, R86), the encoder's EMIT4 and FLUSH (spec/42_text_feed.md R117, R119), reset (R150). -/

namespace Sys2Proof.Machine

/-- Refusing a command, the block's only error event: `ILL <- 1` and nothing else (R133). DEDUCED (log entry
3; safe): the machine goes on, the exact choice of the two R142 leaves. The reason is
named for the model; the block does not record it (R131, R135). There is no trap to take and none to return
from (R137, R138). -/
def refuse (_reason : RefuseReason) (s : State) : State := setIll s

/-- The fold of one accumulator: `15 * (x >> 16) + (x & 0xFFFF)` (R82). -/
def fold (x : Word) : Word := Config.foldFactor * (x >>> 16) + (x &&& 0xFFFF#32)

/-- `REDUCE()` (R82). -/
def reduce (s : State) : State := { s with a := fold s.a, b := fold s.b }

/-- The block ends when `CNT` reaches `NBLOCK`: `REDUCE()` and `CNT <- 0` (R80, R81). -/
def endBlockIfFull (s : State) : State :=
  if s.cnt = Config.blockLength then { reduce s with cnt := 0#12 } else s

/-- The sums of `ACC(v)`, before the block's end is tested; `B` uses the new `A` (R80). DESIGN CHOICE (log
entry 5; unsafe): `CNT` is 12 bits wide (R23) and wraps at 4096, a value that no run reaches (R23, R36). -/
def addUnit (v : Byte) (s : State) : State :=
  { s with
    a := s.a + v.setWidth 32
    b := s.b + (s.a + v.setWidth 32)
    cnt := s.cnt + 1#12 }

/-- `ACC(v)` (R80). -/
def acc (v : Byte) (s : State) : State := endBlockIfFull (addUnit v s)

/-- `ACC` of each byte in order (R44). -/
def accAll (vs : List Byte) (s : State) : State := vs.foldl (fun t v => acc v t) s

/-- The word that `FINAL` forms (R86). -/
def checksumOf (a b : Word) : Word := ((b % Config.modulus) <<< 16) ||| (a % Config.modulus)

/-- `FINAL()` (R86). -/
def final (s : State) : State := { s with result := checksumOf s.a s.b }

/-- `PEND <- 0` (R117). -/
def clearPend (s : State) : State := { s with pend := false }

/-- `LEAD <- u & 0x3FF; PEND <- 1` (R115). -/
def latchLead (u : Elem) (s : State) : State := { s with lead := leadBits u, pend := true }

/-- `EMIT4(t)` (R117). -/
def emit4 (t : Elem) (s : State) : State := clearPend (accAll (fourBytes (pairCodePoint s.lead t)) s)

/-- `FLUSH()`: the missing trail is taken as 0x0000 (R119). -/
def flush (s : State) : State := emit4 0#16 (setInvIf true s)

/-- `START(m)` (R89): RESULT and ILL are kept. -/
def startMessage (m : Mode) (s : State) : State :=
  { s with
    a := Config.initA
    b := Config.initB
    cnt := 0#12
    mode := m
    pend := false
    lead := 0#10
    done := false
    inv := false }

/-- FINISH's last partial block: `if CNT > 0: REDUCE(); CNT <- 0` (R81, R90). -/
def endPartialBlock (s : State) : State :=
  if s.cnt = 0#12 then s else { reduce s with cnt := 0#12 }

/-- `DONE <- 1; MODE <- IDLE` (R90). -/
def closeMessage (s : State) : State := { s with done := true, mode := .idle }

/-- Reset: every element of the block takes its value of R35 (R150). DEDUCED (log entry 8; safe): the host's
events are not the block's and stay. -/
def resetBlock (s : State) : State := { State.reset with input := s.input }

end Sys2Proof.Machine
end

