-- ==== Sys2Proof/Machine/ByteFeed.lean ====
section
/-! DEFINITION. FEED in BYTES and BSTR modes (spec/41_byte_feed.md R101, R102). -/

namespace Sys2Proof.Machine

/-- `FEED_BYTES(d)` (R101): truncate to the low byte, flag what was cut off. -/
def feedBytes (d : Elem) (s : State) : State := acc (byteOperand d) (setInvIf (outsideByteRange d) s)

/-- `FEED_BSTR(d)` (R102): a character code above 255 sets INV; its low byte is accumulated. -/
def feedBstr (d : Elem) (s : State) : State := acc (byteOperand d) (setInvIf (outsideByteRange d) s)

end Sys2Proof.Machine
end

