-- ==== Sys2Proof/Machine/TextFeed.lean ====
section
/-! DEFINITION. FEED in TEXT mode: the inline UTF-8 encoder (spec/42_text_feed.md R110 to R116). -/

namespace Sys2Proof.Machine

/-- `LEADIN(u)` (R115). -/
def leadIn (u : Elem) (s : State) : State := setInvIf (invLead u) (latchLead u s)

/-- `TRAIL(t)` (R116): the lead's pair, whatever its value. -/
def trail (t : Elem) (s : State) : State := emit4 t (setInvIf (invTrail t) s)

/-- `FEED_TEXT(u)` (R110), the tests in the order of R111. -/
def feedText (u : Elem) (s : State) : State :=
  if s.pend then trail u s
  else if isOneByte u then accAll (oneByte u) s
  else if isTwoByte u then accAll (twoBytes u) s
  else if isSurrogate u then leadIn u s
  else accAll (threeBytes u) s

end Sys2Proof.Machine
end

