-- ==== Sys2Proof/Machine/Commands.lean ====
section
/-! DEFINITION. The meaning of each command, one definition for each constructor of Instr (spec/40_core_engine.md R88 to R90,
spec/41_byte_feed.md R100). -/

namespace Sys2Proof.Machine

/-- NOP (R88): nothing, in every mode, also between a lead and its trail. -/
def execNop (_hint : Elem) (s : State) : Host.Outcome State Fault Refusal := .next s

/-- START BYTES (R89): accepted in every mode; an open message is abandoned. -/
def execStartBytes (s : State) : Host.Outcome State Fault Refusal := .next (startMessage .bytes s)

/-- START BSTR (R89). -/
def execStartBstr (s : State) : Host.Outcome State Fault Refusal := .next (startMessage .bstr s)

/-- START TEXT (R89). -/
def execStartText (s : State) : Host.Outcome State Fault Refusal := .next (startMessage .text s)

/-- FEED's dispatch on MODE (R100); in IDLE the command is refused (R132). DEDUCED (log entry 7; safe): here as
in `decode`, as R100 writes it. -/
def feedEffect (d : Elem) (s : State) : State :=
  match s.mode with
  | .idle => refuse .noMessage s
  | .bytes => feedBytes d s
  | .bstr => feedBstr d s
  | .text => feedText d s

/-- FEED (R100). -/
def execFeed (d : Elem) (s : State) : Host.Outcome State Fault Refusal := .next (feedEffect d s)

/-- `if PEND == 1: FLUSH()` (R90, R119). DEDUCED (log entry 13; safe): PEND alone is tested, as the pseudocode
tests it, also in states no run reaches. -/
def flushIfPending (s : State) : State := if s.pend then flush s else s

/-- `FINISH()` with a message open (R90). -/
def finishMessage (s : State) : State := closeMessage (final (endPartialBlock (flushIfPending s)))

/-- FINISH's effect; in IDLE the command is refused (R90, R132). -/
def finishEffect (s : State) : State :=
  match s.mode with
  | .idle => refuse .noMessage s
  | .bytes => finishMessage s
  | .bstr => finishMessage s
  | .text => finishMessage s

/-- FINISH (R90). -/
def execFinish (s : State) : Host.Outcome State Fault Refusal := .next (finishEffect s)

end Sys2Proof.Machine
end

