-- ==== Sys2Proof/Machine/Dispatch.lean ====
section
/-! DEFINITION. One arm for each constructor of Instr. -/

namespace Sys2Proof.Machine

def exec (i : Instr) (s : State) : Host.Outcome State Fault Refusal :=
  match i with
  | .nop hint => Sys2Proof.Machine.execNop hint s
  | .startBytes => Sys2Proof.Machine.execStartBytes s
  | .startBstr => Sys2Proof.Machine.execStartBstr s
  | .startText => Sys2Proof.Machine.execStartText s
  | .feed data => Sys2Proof.Machine.execFeed data s
  | .finish => Sys2Proof.Machine.execFinish s

end Sys2Proof.Machine
end

