-- ==== Sys2Proof/Machine/HostPort.lean ====
section
/-! DEFINITION. Taking what the host does next: a command word, an idle edge or a reset (spec/30_encoding.md R56, R66,
spec/70_reset_and_hazards.md R150). -/

namespace Sys2Proof.Machine

/-- One accepted command word, as one atomic step (R48, R66): a refused one sets ILL (R133) and the machine
goes on (R142). -/
def acceptCommand (w : Word) (s : State) : Host.Outcome State Fault Refusal :=
  match decode w s.mode with
  | .accepted i => exec i s
  | .refused r => .next (refuse r s)

/-- One event of the host: with `cmd_valid` = 0 the block changes no state (R56); reset sets every element
(R150). -/
def takeEvent (e : HostEvent) (s : State) : Host.Outcome State Fault Refusal :=
  match e with
  | .command w => acceptCommand w s
  | .idle => .next s
  | .reset => .next (resetBlock s)

/-- The state with other host events to come: nothing of the block changes. -/
def withInput (rest : List HostEvent) (s : State) : State := { s with input := rest }

/-- The host's next event and the state from which it has been taken; `none` when the host presents nothing
more (R34, R160). -/
def nextEvent (s : State) : Option (HostEvent × State) :=
  match s.input with
  | [] => none
  | e :: rest => some (e, withInput rest s)

/-- The host presents the word `w` before everything else it will do. -/
def presentCommand (w : Word) (s : State) : State := withInput (.command w :: s.input) s

end Sys2Proof.Machine
end

