-- ==== Sys2Proof/Machine/Step.lean ====
section
/-! DEFINITION. One step of the untimed machine: one event of the host (spec/70_reset_and_hazards.md R158). -/

namespace Sys2Proof.Machine

/-- One step: the host's next event. DEDUCED (log entry 2; safe): with nothing presented the block changes no
state (R56, R160). -/
def step (s : State) : Host.Outcome State Fault Refusal :=
  match nextEvent s with
  | none => .next s
  | some (e, t) => takeEvent e t

/-- The state in which the host presents the command whose bits are `w` (numbered as the opcode table numbers
them) at the very next step (R34, R56). DESIGN CHOICE (log entry 10; unsafe). More bits than a command has change nothing. -/
def State.withFetchWord (s : State) (nbits w : Nat) : State :=
  match tableWord nbits w with
  | some v => presentCommand v s
  | none => s

end Sys2Proof.Machine
end

