-- ==== Sys2Proof/Machine/Reference.lean ====
section
/-! DEFINITION. What the spec says of whole messages, written apart from the machine: the Adler-32 of a unit sequence
(spec/40_core_engine.md R87), the encoder as a function on a whole string (spec/42_text_feed.md R110 to R122), and a
message as a sequence of host events (spec/70_reset_and_hazards.md R154). Statements compare the machine with it. -/

namespace Sys2Proof.Machine

/-- `1 + Σ v_i`: R87's `a` before the mod. -/
def unitSum (vs : List Byte) : Nat := 1 + (vs.map BitVec.toNat).sum

/-- `Σ_{i=1..n} (1 + Σ_{j=1..i} v_j)`: R87's `b` before the mod. -/
def unitSumOfSums (vs : List Byte) : Nat :=
  ((List.range vs.length).map (fun i => unitSum (vs.take (i + 1)))).sum

/-- `n + Σ_{i=1..n} (n - i + 1) * v_i`: R87's second form of `b` before the mod. -/
def weightedUnitSum : List Byte → Nat
  | [] => 0
  | v :: vs => 1 + (vs.length + 1) * v.toNat + weightedUnitSum vs

/-- The Adler-32 of a unit sequence: `(b << 16) | a` (R87). -/
def adler32 (vs : List Byte) : Word :=
  BitVec.ofNat 32 (unitSumOfSums vs % 65521 * 65536 + unitSum vs % 65521)

/-- The bytes of a whole TEXT message: a surrogate-range unit consumes the next one, whatever it is
(R111, R116), and a lead at the end of the input pairs with 0x0000 (R119). -/
def textUnits : List Elem → List Byte
  | [] => []
  | [u] => if isSurrogate u then fourBytes (pairCodePoint (leadBits u) 0#16) else plainBytes u
  | u :: t :: rest =>
    if isSurrogate u then fourBytes (pairCodePoint (leadBits u) t) ++ textUnits rest
    else plainBytes u ++ textUnits (t :: rest)

/-- The bytes a TEXT message's FEEDs have emitted so far: a lead at the end still waits for its trail
(R115, R116, R120). -/
def textEmitted : List Elem → List Byte
  | [] => []
  | [u] => if isSurrogate u then [] else plainBytes u
  | u :: t :: rest =>
    if isSurrogate u then fourBytes (pairCodePoint (leadBits u) t) ++ textEmitted rest
    else plainBytes u ++ textEmitted (t :: rest)

/-- Whether a TEXT message breaks the caller contract: the three cases of R118. -/
def textViolation : List Elem → Bool
  | [] => false
  | [u] => isSurrogate u
  | u :: t :: rest =>
    if isSurrogate u then isLowSurrogate u || !isLowSurrogate t || textViolation rest
    else textViolation (t :: rest)

/-- The units of a message, by its mode (R10, R42, R120). -/
def messageUnits (m : Mode) (ds : List Elem) : List Byte :=
  match m with
  | .idle => []
  | .bytes => ds.map byteOperand
  | .bstr => ds.map byteOperand
  | .text => textUnits ds

/-- The units accumulated by the FEEDs so far, by the mode (R10, R42, R120). -/
def emittedUnits (m : Mode) (ds : List Elem) : List Byte :=
  match m with
  | .idle => []
  | .bytes => ds.map byteOperand
  | .bstr => ds.map byteOperand
  | .text => textEmitted ds

/-- Whether a finished message has INV = 1 (R134). -/
def messageViolation (m : Mode) (ds : List Elem) : Bool :=
  match m with
  | .idle => false
  | .bytes => ds.any outsideByteRange
  | .bstr => ds.any outsideByteRange
  | .text => textViolation ds

/-- The event may stand between the START and the FINISH of one message: a FEED, a NOP, or no command at
all (R154, R157). -/
def isBodyEvent (e : HostEvent) : Bool :=
  match e with
  | .idle => true
  | .reset => false
  | .command w =>
    match decodeWord w with
    | .accepted (.nop _) => true
    | .accepted (.feed _) => true
    | _ => false

/-- The element a FEED event carries (R41). -/
def feedDatum (e : HostEvent) : Option Elem :=
  match e with
  | .idle => none
  | .reset => none
  | .command w =>
    match decodeWord w with
    | .accepted (.feed d) => some d
    | _ => none

/-- The input sequence of a message's body: the data of its FEEDs in acceptance order (R41). -/
def fedData (body : List HostEvent) : List Elem := body.filterMap feedDatum

/-- A whole message as the host presents it: START, the body, FINISH (R154). -/
def messageEvents (m : Mode) (body : List HostEvent) : List HostEvent :=
  .command (startWord m) :: (body ++ [.command (encode .finish)])

/-- FEED commands of a data sequence: R69's `FEEDS`. -/
def feedEvents (ds : List Elem) : List HostEvent := ds.map (fun d => .command (encode (.feed d)))

/-- The UTF-16 code units of one character: one unit, or a lead and a trail (G1, G2 of
spec/93_implementation_defined.md: general knowledge). -/
def utf16OfChar (c : Char) : List Elem :=
  if c.toNat < 0x10000 then [BitVec.ofNat 16 c.toNat]
  else [BitVec.ofNat 16 (0xD800 + (c.toNat - 0x10000) / 1024),
        BitVec.ofNat 16 (0xDC00 + (c.toNat - 0x10000) % 1024)]

/-- The UTF-16 code units of a string. -/
def utf16 (cs : List Char) : List Elem := cs.flatMap utf16OfChar

/-- The UTF-8 encoding of a string, by Lean's own encoder (not by the formulas of the spec). -/
def utf8 (cs : List Char) : List Byte :=
  cs.flatMap (fun c => (String.utf8EncodeChar c).map UInt8.toBitVec)

/-- A well-formed UTF-16 string (R122): every unit in 0xD800-0xDBFF is followed by one in 0xDC00-0xDFFF,
and none of those stands alone. -/
def wellFormedUtf16 : List Elem → Bool
  | [] => true
  | [u] => !isSurrogate u
  | u :: t :: rest =>
    if isSurrogate u then !isLowSurrogate u && isLowSurrogate t && wellFormedUtf16 rest
    else wellFormedUtf16 (t :: rest)

end Sys2Proof.Machine
end

