-- ==== Sys2Proof/Machine/Assembler.lean ====
section
/-! DEFINITION. The assembler of spec/30_encoding.md R68 and R69: lines to command words, and text to lines. It is the host's
tool, no part of the block. DESIGN CHOICE (log entry 9; unsafe): what R68 and R69 leave open of it. -/

namespace Sys2Proof.Machine

/-- The mode the block is in after the word, if it was in `m`: what `FEEDSTR` needs to know. -/
def modeAfterWord (m : Mode) (w : Word) : Mode :=
  match decode w m with
  | .accepted .startBytes => .bytes
  | .accepted .startBstr => .bstr
  | .accepted .startText => .text
  | .accepted .finish => .idle
  | .accepted (.nop _) => m
  | .accepted (.feed _) => m
  | .refused _ => m

/-- The FEED words of a list of elements: `FEEDS` (R69). -/
def feedWords (vs : List Nat) : List Word := vs.map (fun v => encode (.feed (BitVec.ofNat 16 v)))

/-- The elements of `FEEDSTR "s"` in an open mode: ASCII codes in BYTES and BSTR, UTF-16 code units in TEXT;
`none` where R69 gives no meaning (no open message, or a character that is not ASCII; log entry 9). -/
def strElems (m : Mode) (s : List Char) : Option (List Elem) :=
  match m with
  | .idle => none
  | .bytes => if s.all (fun c => decide (c.toNat < 128)) then some (s.map (fun c => BitVec.ofNat 16 c.toNat)) else none
  | .bstr => if s.all (fun c => decide (c.toNat < 128)) then some (s.map (fun c => BitVec.ofNat 16 c.toNat)) else none
  | .text => some (utf16 s)

/-- The words a line stands for, in the mode open before it; `none` is an assembly error (R68, R69). -/
def lineWords (m : Mode) (l : AsmLine) : Option (List Word) :=
  if l.wellFormed then
    match l with
    | .nop h => some [encode (.nop (BitVec.ofNat 16 h))]
    | .start k => some [startWord k]
    | .feed v => some (feedWords [v])
    | .finish => some [encode .finish]
    | .feeds vs => some (feedWords vs)
    | .checksum k vs => some (startWord k :: (feedWords vs ++ [encode .finish]))
    | .feedStr s => (strElems m s).map (List.map (fun d => encode (.feed d)))
    | .rawWord w => some [BitVec.ofNat 32 w]
  else none

/-- The words of a list of lines, from a mode on (IDLE after reset); `none` if a line is an assembly error. -/
def assemble (m : Mode) : List AsmLine → Option (List Word)
  | [] => some []
  | l :: ls =>
    match lineWords m l with
    | none => none
    | some ws => (assemble (ws.foldl modeAfterWord m) ls).map (fun rest => ws ++ rest)

/-! ### Text to lines -/

/-- White space inside a line (log entry 9). -/
def isBlankChar (c : Char) : Bool := c == ' ' || c == Char.ofNat 9 || c == Char.ofNat 13

/-- `;` starts a comment (R68). -/
def stripComment (cs : List Char) : List Char := cs.takeWhile (fun c => c != ';')

/-- The parts of a character list between the characters that `sep` holds of. -/
def splitChars (sep : Char → Bool) : List Char → List (List Char)
  | [] => [[]]
  | c :: cs =>
    if sep c then [] :: splitChars sep cs
    else
      match splitChars sep cs with
      | [] => [[c]]
      | w :: ws => (c :: w) :: ws

/-- The words of a line. -/
def blankWords (cs : List Char) : List (List Char) :=
  (splitChars isBlankChar cs).filter (fun w => !w.isEmpty)

/-- One digit of base 10 or 16. -/
def digitValue (base : Nat) (c : Char) : Option Nat :=
  let v :=
    if '0'.toNat ≤ c.toNat ∧ c.toNat ≤ '9'.toNat then c.toNat - '0'.toNat
    else if 'a'.toNat ≤ c.toNat ∧ c.toNat ≤ 'f'.toNat then c.toNat - 'a'.toNat + 10
    else if 'A'.toNat ≤ c.toNat ∧ c.toNat ≤ 'F'.toNat then c.toNat - 'A'.toNat + 10
    else base
  if v < base then some v else none

/-- A run of digits, most significant first. -/
def digitsValue (base : Nat) : List Char → Nat → Option Nat
  | [], acc => some acc
  | c :: cs, acc =>
    match digitValue base c with
    | none => none
    | some d => digitsValue base cs (acc * base + d)

/-- A decimal or `0x` hexadecimal number (R68). -/
def numberValue : List Char → Option Nat
  | [] => none
  | '0' :: 'x' :: d :: ds => digitsValue 16 (d :: ds) 0
  | c :: cs => digitsValue 10 (c :: cs) 0

/-- A number between white space, as the parts of a comma list are written (R69). -/
def paddedNumber (cs : List Char) : Option Nat :=
  match blankWords cs with
  | [w] => numberValue w
  | _ => none

/-- A comma list of numbers; the empty list when nothing is written (R69 with n = 0). -/
def numberList (cs : List Char) : Option (List Nat) :=
  if (blankWords cs).isEmpty then some [] else (splitChars (fun c => c == ',') cs).mapM paddedNumber

/-- The operand of `FEEDSTR`: the characters between two double quotes, then at most a comment. -/
def quotedString (cs : List Char) : Option (List Char) :=
  match cs.dropWhile isBlankChar with
  | [] => none
  | q :: rest =>
    if q.toNat = 34 then
      match rest.dropWhile (fun c => c.toNat != 34) with
      | [] => none
      | _ :: after =>
        if (blankWords (stripComment after)).isEmpty then some (rest.takeWhile (fun c => c.toNat != 34))
        else none
    else none

/-- A mode as START writes it (R68). -/
def modeWord (w : List Char) : Option Mode :=
  if w = "BYTES".toList then some .bytes
  else if w = "BSTR".toList then some .bstr
  else if w = "TEXT".toList then some .text
  else none

/-- A command line without comment, `name` its first word and `operands` the rest (R68, R69). -/
def parseCommand (name operands : List Char) : Option AsmLine :=
  if name = "NOP".toList then
    if (blankWords operands).isEmpty then some (.nop 0) else (paddedNumber operands).map .nop
  else if name = "START".toList then
    match blankWords operands with
    | [w] => (modeWord w).map .start
    | _ => none
  else if name = "FEED".toList then (paddedNumber operands).map .feed
  else if name = "FINISH".toList then
    if (blankWords operands).isEmpty then some .finish else none
  else if name = "FEEDS".toList then (numberList operands).map .feeds
  else if name = "CHECKSUM_BYTES".toList then (numberList operands).map (.checksum .bytes)
  else if name = "CHECKSUM_BSTR".toList then (numberList operands).map (.checksum .bstr)
  else if name = "CHECKSUM_TEXT".toList then (numberList operands).map (.checksum .text)
  else if name = ".word".toList then (paddedNumber operands).map .rawWord
  else none

/-- One line of text: no line for an empty one or a comment, one for a command; `none` is an assembly error.
DESIGN CHOICE (log entry 9; unsafe): R69 writes a blank between `FEEDSTR` and its opening quote, and the line is accepted
without it too; every other mnemonic ends at a blank, a comment or the end of the line. -/
def parseLine (cs : List Char) : Option (List AsmLine) :=
  let text := cs.dropWhile isBlankChar
  if text.takeWhile (fun c => !isBlankChar c && c.toNat != 34) = "FEEDSTR".toList then
    (quotedString (text.dropWhile (fun c => !isBlankChar c && c.toNat != 34))).map (fun s => [.feedStr s])
  else
    let code := (stripComment text)
    if (blankWords code).isEmpty then some []
    else
      (parseCommand (code.takeWhile (fun c => !isBlankChar c))
        (code.dropWhile (fun c => !isBlankChar c))).map (fun l => [l])

/-- A whole program text, one command a line (R68). -/
def parseText (cs : List Char) : Option (List AsmLine) :=
  ((splitChars (fun c => c == Char.ofNat 10) cs).mapM parseLine).map List.flatten

end Sys2Proof.Machine
end

