-- ==== Sys2Proof/Machine/Handshake.lean ====
section
/-! DEFINITION. The clocked port shell around the untimed machine: the handshake of spec/30_encoding.md R55 and R56,
CMD_LATENCY and RESET_STYLE of spec/70_reset_and_hazards.md R150, R152, R155 and R158. DESIGN CHOICE (log entries 6, 12
and 15; unsafe): when inside its busy time a command's effect lands, how RESET_STYLE acts on the pins, and what becomes of a
command presented while reset is asserted. -/

namespace Sys2Proof.Machine

/-- The input pins at one clock edge (R55); `clk` is the edge itself. -/
structure Pins where
  rst : Bool
  cmdValid : Bool
  cmd : Word
  deriving DecidableEq, Repr

/-- What the outside does to the clocked block: a clock edge, or a change of `rst` between edges. -/
inductive Stimulus where
  | edge (p : Pins)
  | rstLevel (level : Bool)
  deriving DecidableEq, Repr

/-- An accepted command whose effect is not complete: its word, and how many busy edges follow the next
one (R56, R158). -/
structure InFlight where
  word : Word
  remaining : Nat
  deriving DecidableEq, Repr

/-- The clocked block: its state, the command in flight, and how many commands have been accepted (which
only selects each command's `CMD_LATENCY`). -/
structure Shell where
  block : State
  inFlight : Option InFlight
  accepted : Nat
  deriving DecidableEq, Repr

/-- The state a step answers; a step that stopped would leave the state as it was (none stops). -/
def stateAfter (o : Host.Outcome State Fault Refusal) (s : State) : State :=
  match o with
  | .next t => t
  | .fault _ => s
  | .refused _ => s

/-- The block after the whole effect of an event. -/
def eventEffect (e : HostEvent) (s : State) : State := stateAfter (takeEvent e s) s

/-- `cmd_ready` (R56). DESIGN CHOICE (log entry 15; unsafe): it does not depend on `rst`, so while reset is asserted it
is 1 unless a command is in flight, and after a reset it is 1. -/
def cmdReady (h : Shell) : Bool := h.inFlight.isNone

/-- Whether a level of `rst` asserts reset, by its polarity (R152). -/
def resetAsserted (st : Config.ResetStyle) (level : Bool) : Bool := level == st.activeHigh

/-- Reset: every element takes its reset value and a command in progress is lost (R150). -/
def shellReset (h : Shell) : Shell := { h with block := resetBlock h.block, inFlight := none }

/-- The whole effect of a command lands, and the block is ready again (R48, R56). -/
def completeCommand (w : Word) (h : Shell) : Shell :=
  { h with block := eventEffect (.command w) h.block, inFlight := none }

/-- A command is accepted: with `CMD_LATENCY` 0 it is complete at once, otherwise it is in flight (R56, R158). -/
def acceptAtEdge (p : Config.OpenParams) (w : Word) (h : Shell) : Shell :=
  match p.cmdLatency h.accepted with
  | 0 => completeCommand w { h with accepted := h.accepted + 1 }
  | n + 1 => { h with inFlight := some ⟨w, n⟩, accepted := h.accepted + 1 }

/-- A clock edge without reset: a busy block counts down; a ready one accepts exactly when `cmd_valid` = 1
(R56). DESIGN CHOICE (log entry 6; unsafe): R56's clause that the block changes no state while `cmd_valid` = 0 is read of a
ready block; the effect of a command in flight lands at its last busy edge whatever `cmd_valid` is there. -/
def clockEdge (p : Config.OpenParams) (pins : Pins) (h : Shell) : Shell :=
  match h.inFlight with
  | some f =>
    match f.remaining with
    | 0 => completeCommand f.word h
    | n + 1 => { h with inFlight := some ⟨f.word, n⟩ }
  | none => if pins.cmdValid then acceptAtEdge p pins.cmd h else h

/-- One stimulus. Between edges only an asynchronous reset acts (R152; log entry 12). DESIGN CHOICE (log entry 15;
unsafe): at an edge at which reset is asserted, reset wins: a command presented there with `cmd_valid` = 1 and
`cmd_ready` = 1 is neither accepted nor counted. R56 and R150 do not say which of the two wins. -/
def shellStep (p : Config.OpenParams) (x : Stimulus) (h : Shell) : Shell :=
  match x with
  | .edge pins => if resetAsserted p.resetStyle pins.rst then shellReset h else clockEdge p pins h
  | .rstLevel level =>
    if !p.resetStyle.synchronous && resetAsserted p.resetStyle level then shellReset h else h

/-- A sequence of stimuli. -/
def shellRun (p : Config.OpenParams) (xs : List Stimulus) (h : Shell) : Shell :=
  xs.foldl (fun g x => shellStep p x g) h

/-- The events whose whole effect lands at a stimulus: a completed command or a reset, or none. -/
def landedEvents (p : Config.OpenParams) (x : Stimulus) (h : Shell) : List HostEvent :=
  match x with
  | .edge pins =>
    if resetAsserted p.resetStyle pins.rst then [.reset]
    else
      match h.inFlight with
      | some f => if f.remaining = 0 then [.command f.word] else []
      | none =>
        if pins.cmdValid && p.cmdLatency h.accepted == 0 then [.command pins.cmd] else []
  | .rstLevel level =>
    if !p.resetStyle.synchronous && resetAsserted p.resetStyle level then [.reset] else []

/-- The events that land along a sequence of stimuli, in order. -/
def landedTrace (p : Config.OpenParams) : List Stimulus → Shell → List HostEvent
  | [], _ => []
  | x :: xs, h => landedEvents p x h ++ landedTrace p xs (shellStep p x h)

/-- `status` and `result` as the host may sample them: only while `cmd_ready` = 1 (R155). -/
def sampledOutputs (h : Shell) : Option (BitVec 8 × Word) :=
  if cmdReady h then some (statusPort h.block, resultPort h.block) else none

end Sys2Proof.Machine
end

