-- ==== Sys2Proof/Safety.lean ====
section
/-! DEFINITION. What a safe run is and the invariants of the block (spec/60_exceptions.md R142, spec/10_state.md R36,
spec/40_core_engine.md R85). -/

namespace Sys2Proof.Machine

/-- The machine's run over events the host presents now, before everything else it will do. -/
def runEvents (es : List HostEvent) (s : State) : Host.Outcome State Fault Refusal :=
  Host.Core.run Sys2Proof.core es.length { s with input := es ++ s.input }

/-- No command was refused since reset: the premise a claim takes against misuse of the interface (R142). -/
def NoMisuse (s : State) : Prop := s.ill = false

/-- The current or last message kept the caller contract: the premise a claim about the source's software
takes (R142). -/
def InContract (s : State) : Prop := s.inv = false

/-- A safe state in the terms claims use (R142). -/
def Safe (s : State) : Prop := NoMisuse s ∧ InContract s

/-- The three clauses of R36. -/
structure Inv (s : State) : Prop where
  /-- `CNT` ≤ 3849. -/
  cntInBlock : s.cnt.toNat ≤ 3849
  /-- `PEND` = 1 only if `MODE` = TEXT. -/
  pendOnlyInText : s.pend = true → s.mode = .text
  /-- `MODE` ≠ IDLE only if `DONE` = 0. -/
  openNotDone : s.mode ≠ .idle → s.done = false

/-- R85's bounds of the accumulators after `k` units of a block. -/
def AccBounds (k : Nat) (a b : Word) : Prop :=
  a.toNat ≤ 65745 + 255 * k ∧ b.toNat ≤ 556245 + k * 65745 + 255 * (k * (k + 1) / 2)

/-- R23's range of `CNT` with R85's bounds for the units counted. -/
def Bounded (s : State) : Prop := s.cnt.toNat ≤ 3849 ∧ AccBounds s.cnt.toNat s.a s.b

/-- The two states differ at most in what no later command can show (R26, R35, 93 S3): LEAD while no lead is
pending, and `A`, `B`, `CNT` while no message is open. -/
structure SameLive (s t : State) : Prop where
  mode : s.mode = t.mode
  pend : s.pend = t.pend
  result : s.result = t.result
  done : s.done = t.done
  ill : s.ill = t.ill
  inv : s.inv = t.inv
  input : s.input = t.input
  lead : s.pend = true → s.lead = t.lead
  sums : s.mode ≠ .idle → s.a = t.a ∧ s.b = t.b ∧ s.cnt = t.cnt

end Sys2Proof.Machine
end

