-- ==== Sys2Proof/Certificates/Slice0/Obligations.lean ====
section
/-! DEFINITION. The statements for the provers. Each docstring names the rules it formalises. -/

open Sys2Proof Sys2Proof.Machine

/-! ### Reset -/

/-- R35: the reset value of every element and of the two ports, and that the values of `A`, `B`, `CNT` and
`LEAD` are unobservable: whatever they were, every sequence of events shows the same `status` and `result`.
That `input` is empty is the model's choice (log entry 1) and is not stated. -/
def Obligations.ResetValuesAndUnobservableOnes : Prop :=
  (State.reset.a = 1#32 ∧ State.reset.b = 0#32 ∧ State.reset.cnt = 0#12 ∧ State.reset.mode = .idle ∧
    State.reset.pend = false ∧ State.reset.lead = 0#10 ∧ State.reset.result = 0#32 ∧
    State.reset.done = false ∧ State.reset.ill = false ∧ State.reset.inv = false ∧
    statusPort State.reset = 0#8 ∧ resultPort State.reset = 0#32) ∧
  ∀ (a b : Word) (cnt : Count) (lead : LeadBits) (es : List HostEvent),
    ∃ t u, runEvents es State.reset = .next t ∧
      runEvents es { State.reset with a := a, b := b, cnt := cnt, lead := lead } = .next u ∧
      statusPort t = statusPort u ∧ resultPort t = resultPort u

/-- R36 and R85 (which the spec derives) at reset: the invariants of the two step statements below hold. -/
def Obligations.InvariantsHoldAtReset : Prop := Inv State.reset ∧ Bounded State.reset

/-! ### The step -/

/-- One accepted command is one step (R48, R49, R158): a step whose next event is a command word that decodes
to `i` is `exec i`, the event taken off the host's list and nothing else done; so a word placed to be fetched next
is run as the very next step. The host's list is the model's (log entries 1 and 10). -/
def Obligations.StepRunsDecodedCommand : Prop :=
  (∀ (s : State) (w : Word) (rest : List HostEvent) (i : Instr),
    s.input = .command w :: rest → decodeWord w = .accepted i →
      step s = exec i { s with input := rest }) ∧
  (∀ (s : State) (nbits w : Nat) (i : Instr), decodeTableWord nbits w = some i →
    step (s.withFetchWord nbits w) = exec i s)

/-- What a step does without a command: nothing while the host presents none (R56; an exhausted list of events
is log entry 2), and every element to its reset value at a reset (R150; that the host's events stay is log
entry 8). -/
def Obligations.StepWithoutCommand : Prop :=
  (∀ s : State, s.input = [] → step s = .next s) ∧
  (∀ (s : State) (rest : List HostEvent), s.input = .idle :: rest →
    step s = .next { s with input := rest }) ∧
  (∀ (s : State) (rest : List HostEvent), s.input = .reset :: rest →
    step s = .next ⟨1#32, 0#32, 0#12, .idle, false, 0#10, 0#32, false, false, false, rest⟩)

/-- R133: a refused command sets ILL and changes nothing else, the host may go on, and ILL stays 1 until reset;
with the rule's example. -/
def Obligations.RefusedCommandSetsOnlyIll : Prop :=
  (∀ (s : State) (w : Word) (rest : List HostEvent) (r : RefuseReason),
    s.input = .command w :: rest → decode w s.mode = .refused r →
      step s = .next { s with ill := true, input := rest }) ∧
  (∀ s t : State, s.ill = true → (∀ rest, s.input ≠ .reset :: rest) → step s = .next t → t.ill = true) ∧
  (∃ t u, runEvents [.command 0x20000041#32] State.reset = .next t ∧ statusPort t = 0x02#8 ∧
    runEvents [.command 0x10000001#32, .command 0x30000000#32] t = .next u ∧
    resultPort u = 0x00000001#32 ∧ statusPort u = 0x03#8)

/-- R130: no state and no event makes the machine stop; every step and every command has a next state. -/
def Obligations.MachineNeverStops : Prop :=
  (∀ s : State, ∃ t, step s = .next t) ∧ ∀ (i : Instr) (s : State), ∃ t, exec i s = .next t

/-! ### Decoding -/

/-- R66: `decode(w, MODE)` line by line, the fields as numbers (`OP` = w[31:28], `RSV` = w[27:16], `DATA` = w[15:0]), and
that every reason of a refusal has the same effect. -/
def Obligations.DecodeFollowsTheLinesInOrder : Prop :=
  (∀ (r : RefuseReason) (s : State), refuse r s = { s with ill := true }) ∧
  ∀ (w : Word) (m : Mode),
    decode w m =
      let op := w.toNat / 2 ^ 28
      let rsv := w.toNat / 2 ^ 16 % 2 ^ 12
      let data := w.toNat % 2 ^ 16
      if op ≥ 4 then .refused .reservedOp
      else if rsv ≠ 0 then .refused .reservedBits
      else if op = 0 then .accepted (.nop (BitVec.ofNat 16 data))
      else if op = 1 then
        if data / 4 ≠ 0 ∨ data % 4 = 0 then .refused .badStart
        else if data % 4 = 1 then .accepted .startBytes
        else if data % 4 = 2 then .accepted .startBstr
        else .accepted .startText
      else if op = 2 then
        if m = .idle then .refused .noMessage else .accepted (.feed (BitVec.ofNat 16 data))
      else if data ≠ 0 then .refused .badFinish
      else if m = .idle then .refused .noMessage
      else .accepted .finish

/-- R67: a word is some command's exactly when it is selected by a row of the table, it belongs to its own
command's row, and no word belongs to two rows. -/
def Obligations.AcceptedWordsAreTheTableRows : Prop :=
  (∀ w : Word, (∃ i, decodeWord w = .accepted i) ↔ ∃ r ∈ encodingRows, r.selects w = true) ∧
  (∀ (w : Word) (i : Instr), decodeWord w = .accepted i → i.row ∈ encodingRows ∧ i.row.selects w = true) ∧
  (∀ (w : Word), ∀ r₁ ∈ encodingRows, ∀ r₂ ∈ encodingRows,
    r₁.selects w = true → r₂.selects w = true → r₁ = r₂)

/-- Decode and encode agree for every command, both ways: no bit is dropped, and each word has one meaning
(R63, R65, R67). The third clause, which takes the opcode table's bit numbers as the port's bits, rests on the model's
choice (log entry 10). -/
def Obligations.DecodeEncodeRoundTrip : Prop :=
  (∀ i : Instr, decodeWord (encode i) = .accepted i) ∧
  (∀ (w : Word) (i : Instr), decodeWord w = .accepted i → encode i = w) ∧
  (∀ i : Instr, decodeTableWord 32 (encode i).toNat = some i)

/-- Words written out from R67 and from the refusals of spec/95_test_vectors.md V-C6 to V-C11. -/
def Obligations.SampleWordsDecode : Prop :=
  decodeWord 0x00001234#32 = .accepted (.nop 0x1234#16) ∧
  decodeWord 0x10000001#32 = .accepted .startBytes ∧
  decodeWord 0x10000002#32 = .accepted .startBstr ∧
  decodeWord 0x10000003#32 = .accepted .startText ∧
  decodeWord 0x200020AC#32 = .accepted (.feed 0x20AC#16) ∧
  decodeWord 0x30000000#32 = .accepted .finish ∧
  decodeWord 0x40000000#32 = .refused .reservedOp ∧
  decodeWord 0x00010000#32 = .refused .reservedBits ∧
  decodeWord 0x10000005#32 = .refused .badStart ∧
  decodeWord 0x30000001#32 = .refused .badFinish

/-! ### The commands -/

/-- R88: NOP changes nothing, in every mode and with any hint; its words are `0x0000hhhh`, and with `RSV` ≠ 0 it
is refused in every mode. -/
def Obligations.NopChangesNothing : Prop :=
  (∀ (h : Elem) (s : State), exec (.nop h) s = .next s) ∧
  (∀ (h : Elem) (m : Mode), decode (BitVec.ofNat 32 h.toNat) m = .accepted (.nop h)) ∧
  (∀ (w : Word) (m : Mode), opField w = 0#4 → rsvField w ≠ 0#12 → decode w m = .refused .reservedBits)

/-- R89: the three STARTs write every element but RESULT and ILL, in every mode; their words; when a word with
`OP` = 1 is refused; and the rule's example. -/
def Obligations.StartOpensFreshMessage : Prop :=
  (∀ s : State,
    exec .startBytes s = .next ⟨1#32, 0#32, 0#12, .bytes, false, 0#10, s.result, false, s.ill, false, s.input⟩ ∧
    exec .startBstr s = .next ⟨1#32, 0#32, 0#12, .bstr, false, 0#10, s.result, false, s.ill, false, s.input⟩ ∧
    exec .startText s = .next ⟨1#32, 0#32, 0#12, .text, false, 0#10, s.result, false, s.ill, false, s.input⟩) ∧
  (∀ m : Mode, decode 0x10000001#32 m = .accepted .startBytes ∧ decode 0x10000002#32 m = .accepted .startBstr ∧
    decode 0x10000003#32 m = .accepted .startText) ∧
  (∀ (w : Word) (m : Mode), opField w = 1#4 →
    ((∃ r, decode w m = .refused r) ↔
      w.extractLsb' 0 2 = 0#2 ∨ w.extractLsb' 2 14 ≠ 0#14 ∨ rsvField w ≠ 0#12)) ∧
  (∃ t, exec .startText State.reset = .next t ∧ statusPort t = 0x30#8)

/-- R100: FEED depends on MODE. In IDLE it is turned away with ILL set and nothing else. -/
def Obligations.FeedDispatchesOnMode : Prop :=
  ∀ (d : Elem) (s : State),
    exec (.feed d) s =
      match s.mode with
      | .idle => .next { s with ill := true }
      | .bytes => .next (feedBytes d s)
      | .bstr => .next (feedBstr d s)
      | .text => .next (feedText d s)

/-- FEED and FINISH while no message is open (R132's NoMessage): both are turned away, at `exec` and at the
decoder; nothing but ILL changes. -/
def Obligations.NoMessageTurnsAway : Prop :=
  ∀ (s : State) (d : Elem), s.mode = .idle →
    exec (.feed d) s = .next { s with ill := true } ∧ exec .finish s = .next { s with ill := true } ∧
    decode (encode (.feed d)) s.mode = .refused .noMessage ∧ decode (encode .finish) s.mode = .refused .noMessage

/-- R80 and R82: `ACC(v)` adds the unit to `A`, then the new `A` to `B`, counts it, and at the 3850th unit folds
both sums and clears `CNT`; nothing else changes. The range of `CNT` is R23's. -/
def Obligations.AccumulateUnit : Prop :=
  ∀ (v : Byte) (s : State), s.cnt.toNat ≤ 3849 →
    acc v s =
      let a := (s.a.toNat + v.toNat) % 2 ^ 32
      let b := (s.b.toNat + a) % 2 ^ 32
      if s.cnt.toNat + 1 = 3850 then
        { s with
          a := BitVec.ofNat 32 (15 * (a / 65536) + a % 65536)
          b := BitVec.ofNat 32 (15 * (b / 65536) + b % 65536)
          cnt := 0#12 }
      else
        { s with a := BitVec.ofNat 32 a, b := BitVec.ofNat 32 b, cnt := BitVec.ofNat 12 (s.cnt.toNat + 1) }

/-- R101 and R102: FEED in BYTES and in BSTR mode accumulates `d[7:0]` and sets INV when `d[15:8]` ≠ 0; its words,
and that it is refused exactly in IDLE or with `RSV` ≠ 0. -/
def Obligations.FeedByteResult : Prop :=
  (∀ (d : Elem) (s : State), s.mode = .bytes ∨ s.mode = .bstr →
    exec (.feed d) s
      = .next { acc (BitVec.ofNat 8 (d.toNat % 256)) s with inv := s.inv || decide (d.toNat / 256 ≠ 0) }) ∧
  (∀ (d : Elem) (m : Mode), m ≠ .idle → decode (BitVec.ofNat 32 (0x20000000 + d.toNat)) m = .accepted (.feed d)) ∧
  (∀ (w : Word) (m : Mode), opField w = 2#4 →
    ((∃ r, decode w m = .refused r) ↔ m = .idle ∨ rsvField w ≠ 0#12))

/-- R112, R113 and R114: FEED in TEXT mode with no lead pending, for a code unit that is no surrogate: the bytes
of its class, accumulated in order, and nothing else. -/
def Obligations.FeedTextPlainUnit : Prop :=
  ∀ (u : Elem) (s : State), s.mode = .text → s.pend = false →
    (u.toNat < 0x80 → exec (.feed u) s = .next (acc (BitVec.ofNat 8 u.toNat) s)) ∧
    (0x80 ≤ u.toNat → u.toNat < 0x800 →
      exec (.feed u) s = .next
        (acc (BitVec.ofNat 8 (0x80 ||| (u.toNat &&& 0x3F)))
          (acc (BitVec.ofNat 8 (0xC0 ||| (u.toNat >>> 6))) s))) ∧
    (0x800 ≤ u.toNat → u.toNat < 0xD800 ∨ 0xE000 ≤ u.toNat →
      exec (.feed u) s = .next
        (acc (BitVec.ofNat 8 (0x80 ||| (u.toNat &&& 0x3F)))
          (acc (BitVec.ofNat 8 (0x80 ||| ((u.toNat >>> 6) &&& 0x3F)))
            (acc (BitVec.ofNat 8 (0xE0 ||| (u.toNat >>> 12))) s))))

/-- A surrogate-range unit with no lead pending is latched (R115): no byte is accumulated. The condition of INV
(0xDC00 and above) rests on the low-surrogate range that the spec marks as general knowledge (spec/93 G1). -/
def Obligations.FeedTextLeadIsLatched : Prop :=
  ∀ (u : Elem) (s : State), s.mode = .text → s.pend = false → 0xD800 ≤ u.toNat → u.toNat < 0xE000 →
    exec (.feed u) s = .next
      { s with
        lead := BitVec.ofNat 10 (u.toNat &&& 0x3FF)
        pend := true
        inv := s.inv || decide (0xDC00 ≤ u.toNat) }

/-- With a lead pending every unit is its trail (R116, R117): the pair's code point is in 0x10000 to 0x10FFFF and
its four bytes are accumulated in order. The pair formula and INV's range are ones the spec marks as general
knowledge (spec/93 G1, G2). -/
def Obligations.FeedTextTrailCompletesPair : Prop :=
  ∀ (t : Elem) (s : State), s.mode = .text → s.pend = true →
    let cp := 0x10000 + (s.lead.toNat <<< 10) + (t.toNat &&& 0x3FF)
    (0x10000 ≤ cp ∧ cp ≤ 0x10FFFF) ∧
    exec (.feed t) s = .next
      { acc (BitVec.ofNat 8 (0x80 ||| (cp &&& 0x3F)))
          (acc (BitVec.ofNat 8 (0x80 ||| ((cp >>> 6) &&& 0x3F)))
            (acc (BitVec.ofNat 8 (0x80 ||| ((cp >>> 12) &&& 0x3F)))
              (acc (BitVec.ofNat 8 (0xF0 ||| (cp >>> 18))) s))) with
        pend := false
        inv := s.inv || !decide (0xDC00 ≤ t.toNat ∧ t.toNat < 0xE000) }

/-- R86 and R90: FINISH with a message open and no lead pending folds a partial block, forms RESULT from the two
residues, sets DONE and returns to IDLE. -/
def Obligations.FinishFormsResult : Prop :=
  ∀ s : State, s.mode ≠ .idle → s.pend = false →
    exec .finish s = .next
      (let a := if s.cnt = 0#12 then s.a.toNat else 15 * (s.a.toNat / 65536) + s.a.toNat % 65536
       let b := if s.cnt = 0#12 then s.b.toNat else 15 * (s.b.toNat / 65536) + s.b.toNat % 65536
       { s with
         a := BitVec.ofNat 32 a
         b := BitVec.ofNat 32 b
         cnt := 0#12
         result := BitVec.ofNat 32 (b % 65521 * 65536 + a % 65521)
         done := true
         mode := .idle })

/-- R119: FINISH with a lead pending first emits the four bytes of the lead with the trail 0x0000 and sets INV;
then it is the FINISH of a message with no lead pending. With R119's example (RESULT = 0x074102A0). The pair's code point and
its four bytes are R117's, which the spec takes from general knowledge (spec/93 G2; log entry 14), and a lead pending
outside TEXT is flushed as the pseudocode is written (log entry 13). -/
def Obligations.FinishFlushesPendingLead : Prop :=
  (∀ s : State, s.mode ≠ .idle → s.pend = true →
    let cp := 0x10000 + (s.lead.toNat <<< 10)
    exec .finish s = exec .finish
      { acc (BitVec.ofNat 8 (0x80 ||| (cp &&& 0x3F)))
          (acc (BitVec.ofNat 8 (0x80 ||| ((cp >>> 6) &&& 0x3F)))
            (acc (BitVec.ofNat 8 (0x80 ||| ((cp >>> 12) &&& 0x3F)))
              (acc (BitVec.ofNat 8 (0xF0 ||| (cp >>> 18))) s))) with
        pend := false
        inv := true }) ∧
  (∃ t, runEvents [.command 0x10000003#32, .command 0x2000D83D#32, .command 0x30000000#32] State.reset = .next t ∧
    resultPort t = 0x074102A0#32 ∧ t.inv = true)

/-- FINISH completes in every state with a message open, a lead pending or not (R90, R119): the next state has the
message closed, DONE set, no lead pending and no partial block, and keeps LEAD, ILL and the host's events. -/
def Obligations.FinishClosesEveryOpenMessage : Prop :=
  ∀ s : State, s.mode ≠ .idle →
    ∃ t, exec .finish s = .next t ∧ t.mode = .idle ∧ t.done = true ∧ t.pend = false ∧ t.cnt = 0#12 ∧
      t.inv = (s.inv || s.pend) ∧ t.lead = s.lead ∧ t.ill = s.ill ∧ t.input = s.input ∧
      t.result.toNat = t.b.toNat % 65521 * 65536 + t.a.toNat % 65521

/-! ### Frames -/

/-- What FEED leaves unchanged (R37): MODE, RESULT, DONE and the host's events always; ILL unless it is turned
away; PEND and LEAD outside TEXT; `A`, `B`, `CNT` when a lead is latched. -/
def Obligations.FeedFrame : Prop :=
  ∀ (d : Elem) (s t : State), exec (.feed d) s = .next t →
    t.mode = s.mode ∧ t.result = s.result ∧ t.done = s.done ∧ t.input = s.input ∧
    (s.mode ≠ .idle → t.ill = s.ill) ∧
    (s.mode ≠ .text → t.pend = s.pend ∧ t.lead = s.lead) ∧
    (s.mode = .idle → t.inv = s.inv ∧ t.a = s.a ∧ t.b = s.b ∧ t.cnt = s.cnt) ∧
    (s.mode = .text → s.pend = true ∨ d.toNat < 0xD800 ∨ 0xE000 ≤ d.toNat → t.lead = s.lead) ∧
    (s.mode = .text → s.pend = false → 0xD800 ≤ d.toNat → d.toNat < 0xE000 →
      t.a = s.a ∧ t.b = s.b ∧ t.cnt = s.cnt)

/-- What NOP, the STARTs and FINISH leave unchanged (R37). -/
def Obligations.OtherCommandsFrame : Prop :=
  (∀ (h : Elem) (s t : State), exec (.nop h) s = .next t → t = s) ∧
  (∀ (i : Instr) (s t : State), i = .startBytes ∨ i = .startBstr ∨ i = .startText → exec i s = .next t →
    t.result = s.result ∧ t.ill = s.ill ∧ t.input = s.input) ∧
  (∀ s t : State, s.mode ≠ .idle → exec .finish s = .next t →
    t.lead = s.lead ∧ t.ill = s.ill ∧ t.input = s.input ∧ (s.pend = false → t.inv = s.inv)) ∧
  (∀ s t : State, s.mode = .idle → exec .finish s = .next t → t = { s with ill := true })

/-! ### The status and result registers -/

/-- R31: the bits of STATUS, and that the two ports change only through commands and reset. -/
def Obligations.StatusPortLayout : Prop :=
  (∀ s t : State, s.input = [] ∨ (∃ rest, s.input = .idle :: rest) → step s = .next t →
    statusPort t = statusPort s ∧ resultPort t = resultPort s) ∧
  ∀ s : State,
    (statusPort s).toNat =
      (if s.done then 1 else 0) + (if s.ill then 2 else 0) + (if s.inv then 4 else 0) + (if s.pend then 8 else 0)
        + 16 * (match s.mode with | .idle => 0 | .bytes => 1 | .bstr => 2 | .text => 3)

/-- R27: only an accepted FINISH, and reset, write RESULT; FINISH writes `B mod 65521` and `A mod 65521` to its
halves; the port drives it. -/
def Obligations.ResultChangesOnlyAtFinishOrReset : Prop :=
  (∀ s : State, resultPort s = s.result) ∧
  ∀ s t : State, step s = .next t →
    match s.input with
    | .reset :: _ => t.result = 0#32
    | .command w :: _ =>
      if decode w s.mode = .accepted .finish then
        (t.result.extractLsb' 16 16).toNat = t.b.toNat % 65521 ∧
        (t.result.extractLsb' 0 16).toNat = t.a.toNat % 65521
      else t.result = s.result
    | _ => t.result = s.result

/-- R28: FINISH sets DONE, START and reset clear it, and no other command changes it. -/
def Obligations.DoneFlagRule : Prop :=
  ∀ s t : State, step s = .next t →
    t.done =
      match s.input with
      | .reset :: _ => false
      | .command w :: _ =>
        match decode w s.mode with
        | .accepted .finish => true
        | .accepted .startBytes => false
        | .accepted .startBstr => false
        | .accepted .startText => false
        | _ => s.done
      | _ => s.done

/-- R29: ILL is set by a refused command, cleared by reset, and changed by nothing else. -/
def Obligations.IllFlagRule : Prop :=
  ∀ s t : State, step s = .next t →
    t.ill =
      match s.input with
      | .reset :: _ => false
      | .command w :: _ =>
        match decode w s.mode with
        | .refused _ => true
        | .accepted _ => s.ill
      | _ => s.ill

/-- R24: START writes MODE with the mode it selects, FINISH writes IDLE, reset makes it IDLE, and nothing else
changes it. -/
def Obligations.ModeRegisterRule : Prop :=
  ∀ s t : State, step s = .next t →
    t.mode =
      match s.input with
      | .reset :: _ => .idle
      | .command w :: _ =>
        match decode w s.mode with
        | .accepted .finish => .idle
        | .accepted .startBytes => .bytes
        | .accepted .startBstr => .bstr
        | .accepted .startText => .text
        | _ => s.mode
      | _ => s.mode

/-- R25 and R110: the encoder's state. A TEXT FEED with no lead pending sets PEND exactly for a unit in 0xD800 to
0xDFFF, a TEXT FEED with one pending clears it, START, FINISH and reset clear it, and nothing else changes it. -/
def Obligations.PendLatchRule : Prop :=
  ∀ s t : State, step s = .next t →
    t.pend =
      match s.input with
      | .reset :: _ => false
      | .command w :: _ =>
        match decode w s.mode with
        | .accepted .finish => false
        | .accepted .startBytes => false
        | .accepted .startBstr => false
        | .accepted .startText => false
        | .accepted (.feed u) =>
          if s.mode = .text then !s.pend && decide (0xD800 ≤ u.toNat ∧ u.toNat < 0xE000) else s.pend
        | _ => s.pend
      | _ => s.pend

/-- When INV is set and cleared (R30, R118, R134). The low-surrogate range 0xDC00 to 0xDFFF in the TEXT cases is one
the spec marks as general knowledge (spec/93 G1). -/
def Obligations.InvFlagRule : Prop :=
  ∀ s t : State, step s = .next t →
    t.inv =
      match s.input with
      | .reset :: _ => false
      | .command w :: _ =>
        match decode w s.mode with
        | .accepted .startBytes => false
        | .accepted .startBstr => false
        | .accepted .startText => false
        | .accepted .finish => s.inv || s.pend
        | .accepted (.feed d) =>
          s.inv ||
            (if s.mode = .text then
              if s.pend then !decide (0xDC00 ≤ d.toNat ∧ d.toNat < 0xE000)
              else decide (0xDC00 ≤ d.toNat ∧ d.toNat < 0xE000)
            else decide (256 ≤ d.toNat))
        | _ => s.inv
      | _ => s.inv

/-! ### Invariants -/

/-- R36 (which the spec derives), as an invariant: every step keeps it, from every state that has it. -/
def Obligations.EveryStepKeepsInv : Prop :=
  ∀ s t : State, Inv s → step s = .next t → Inv t

/-- R85 with R23's range of CNT (which the spec derives): the bounds of the accumulators are an invariant. -/
def Obligations.EveryStepKeepsBounded : Prop :=
  ∀ s t : State, Bounded s → step s = .next t → Bounded t

/-- Within the bounds no `ACC` wraps (R85, R91, which the spec derives): both sums stay below 2^31, also before the
block's end is folded, and the bounds hold again after the unit. -/
def Obligations.AccumulationNeverWraps : Prop :=
  ∀ (s : State) (v : Byte), Bounded s →
    s.a.toNat + v.toNat ≤ 1047495 ∧
    s.b.toNat + (s.a.toNat + v.toNat) ≤ 2144034120 ∧
    AccBounds (s.cnt.toNat + 1) (addUnit v s).a (addUnit v s).b ∧
    Bounded (acc v s)

/-! ### Arithmetic -/

/-- R83 and R84 (derived from R82): REDUCE's fold is the literal formula, it never wraps, it keeps the residue, and
it is not the remainder (the rule's three examples). -/
def Obligations.FoldKeepsResidue : Prop :=
  (∀ x : Word, (fold x).toNat = 15 * (x.toNat / 65536) + x.toNat % 65536 ∧ (fold x).toNat ≤ 1048560 ∧
    (fold x).toNat % 65521 = x.toNat % 65521) ∧
  fold 65521#32 = 65521#32 ∧ fold 65535#32 = 65535#32 ∧ fold 131071#32 = 65550#32

/-- The final combination (R86) gives the two residues in the two halves, and the same word before and after a
REDUCE (R83, R90). -/
def Obligations.FinalWordIsTheResidues : Prop :=
  ∀ a b : Word,
    (checksumOf a b).toNat = b.toNat % 65521 * 65536 + a.toNat % 65521 ∧
    checksumOf (fold a) (fold b) = checksumOf a b

/-! ### Whole messages -/

/-- R87 (which the spec derives), with R154: from any state, a message in any mode, with NOPs and idle edges
anywhere in it, ends with RESULT the Adler-32 of its units, DONE set, INV exactly for the violations of R134, ILL
kept, and the host's later events untouched; R87's two forms of `b` agree. -/
def Obligations.MessageResultIsAdler32 : Prop :=
  (∀ (m : Mode) (body : List HostEvent) (s : State), m.opens = true → (∀ e ∈ body, isBodyEvent e = true) →
    ∃ t, runEvents (messageEvents m body) s = .next t ∧
      t.result = adler32 (messageUnits m (fedData body)) ∧
      t.done = true ∧ t.mode = .idle ∧ t.pend = false ∧ t.cnt = 0#12 ∧
      t.inv = messageViolation m (fedData body) ∧ t.ill = s.ill ∧ t.input = s.input) ∧
  (∀ vs : List Byte, unitSumOfSums vs = weightedUnitSum vs)

/-- R21, R22 and R81 between commands of an open message (and R156): after a START and any part of a body, `A` and
`B` are congruent to the sums of the units so far, CNT is their number mod 3850, RESULT is still the previous
checksum and DONE is 0. -/
def Obligations.OpenMessageSums : Prop :=
  ∀ (m : Mode) (body : List HostEvent) (s : State), m.opens = true → (∀ e ∈ body, isBodyEvent e = true) →
    ∃ t, runEvents (.command (startWord m) :: body) s = .next t ∧
      t.a.toNat % 65521 = unitSum (emittedUnits m (fedData body)) % 65521 ∧
      t.b.toNat % 65521 = unitSumOfSums (emittedUnits m (fedData body)) % 65521 ∧
      t.cnt.toNat = (emittedUnits m (fedData body)).length % 3850 ∧
      t.mode = m ∧ t.result = s.result ∧ t.done = false

/-- R103 (which the spec derives): after the same FEEDs, a BYTES and a BSTR message differ in MODE alone, and after
FINISH in nothing. -/
def Obligations.BytesAndBstrAgree : Prop :=
  ∀ (ds : List Elem) (s : State),
    (∃ t, runEvents (.command (startWord .bytes) :: feedEvents ds) s = .next t ∧
      runEvents (.command (startWord .bstr) :: feedEvents ds) s = .next { t with mode := .bstr }) ∧
    (∃ t, runEvents (messageEvents .bytes (feedEvents ds)) s = .next t ∧
      runEvents (messageEvents .bstr (feedEvents ds)) s = .next t)

/-- R121 (which the spec derives): a TEXT message has the RESULT of the BYTES message of the bytes its encoder
emits; for ASCII data that is the same data. -/
def Obligations.TextAgreesWithItsBytes : Prop :=
  (∀ (us : List Elem) (s : State),
    ∃ t u, runEvents (messageEvents .text (feedEvents us)) s = .next t ∧
      runEvents (messageEvents .bytes (feedEvents ((textUnits us).map (BitVec.setWidth 16)))) s = .next u ∧
      t.result = u.result) ∧
  (∀ (us : List Elem) (s : State), (∀ u ∈ us, u.toNat < 0x80) →
    ∃ t, runEvents (messageEvents .text (feedEvents us)) s = .next t ∧
      runEvents (messageEvents .bytes (feedEvents us)) s = .next t)

/-- R122: a well-formed UTF-16 string is the UTF-16 form of some string; its TEXT message has the Adler-32 of that
string's UTF-8 encoding (by Lean's own encoder) and leaves INV 0. The spec marks the standard encodings as general
knowledge (spec/93 G1, G2). -/
def Obligations.WellFormedTextIsUtf8 : Prop :=
  (∀ us : List Elem, wellFormedUtf16 us = true ↔ ∃ cs : List Char, utf16 cs = us) ∧
  (∀ (cs : List Char) (s : State),
    ∃ t, runEvents (messageEvents .text (feedEvents (utf16 cs))) s = .next t ∧
      t.result = adler32 (utf8 cs) ∧ t.inv = false)

/-- The number and the range of the bytes one TEXT FEED accumulates (R110's table, R120, R123): the sums after it
are those after accumulating the bytes, of which there are 0 to 4, none above 0xF4. -/
def Obligations.TextFeedUnitCounts : Prop :=
  ∀ (u : Elem) (s : State), s.mode = .text →
    ∃ (vs : List Byte) (t : State), exec (.feed u) s = .next t ∧
      t.a = (accAll vs s).a ∧ t.b = (accAll vs s).b ∧ t.cnt = (accAll vs s).cnt ∧
      (∀ v ∈ vs, v.toNat ≤ 0xF4) ∧
      vs.length =
        if s.pend then 4
        else if u.toNat < 0x80 then 1
        else if u.toNat < 0x800 then 2
        else if 0xD800 ≤ u.toNat ∧ u.toNat < 0xE000 then 0
        else 3

/-! ### What does not matter -/

/-- R53 and R92 (which the spec derives): RESULT and INV of a message depend on its mode and its FEED data alone: not on
the state before it, nor on the NOPs and idle edges in it. -/
def Obligations.ResultDependsOnlyOnMessage : Prop :=
  ∀ (m : Mode) (body₁ body₂ : List HostEvent) (s₁ s₂ : State), m.opens = true →
    (∀ e ∈ body₁, isBodyEvent e = true) → (∀ e ∈ body₂, isBodyEvent e = true) →
    fedData body₁ = fedData body₂ →
    ∃ t₁ t₂, runEvents (messageEvents m body₁) s₁ = .next t₁ ∧ runEvents (messageEvents m body₂) s₂ = .next t₂ ∧
      t₁.result = t₂.result ∧ t₁.inv = t₂.inv

/-- What is unobservable stays so (R26, R35, spec/93 S3): two states that differ in LEAD with no lead pending, or in
`A`, `B`, `CNT` with no message open, show the same ports and step to two such states. -/
def Obligations.DeadStateIsUnobservable : Prop :=
  ∀ s t : State, SameLive s t →
    statusPort s = statusPort t ∧ resultPort s = resultPort t ∧
    ∃ s' t', step s = .next s' ∧ step t = .next t' ∧ SameLive s' t'

/-- R30 and R134: ILL and INV never change how a command is processed: with other values of both, a step gives the
same state but for those two. -/
def Obligations.FlagsNeverChangeTheResult : Prop :=
  ∀ (s t : State) (ill inv : Bool), step s = .next t →
    ∃ u, step { s with ill := ill, inv := inv } = .next u ∧ { u with ill := t.ill, inv := t.inv } = t

/-! ### The handshake -/

/-- R56: at an edge without reset a command is accepted exactly when `cmd_valid` = 1 and `cmd_ready` = 1, and while
`cmd_valid` = 0 a block that is ready changes nothing (that this clause is read of a ready block is log entry 6). -/
def Obligations.HandshakeAcceptsOnValidAndReady : Prop :=
  ∀ (p : Config.OpenParams) (pins : Pins) (h : Shell), resetAsserted p.resetStyle pins.rst = false →
    ((shellStep p (.edge pins) h).accepted
      = if pins.cmdValid = true ∧ cmdReady h = true then h.accepted + 1 else h.accepted) ∧
    (pins.cmdValid = false → cmdReady h = true → shellStep p (.edge pins) h = h)

/-- The clocked block refines the untimed machine (R48, R56, R158), for every CMD_LATENCY and RESET_STYLE: its state is
the untimed machine's after the events whose effect has landed. The shell's details are the model's
choices (log entries 6, 12 and 15). -/
def Obligations.ShellRefinesUntimedMachine : Prop :=
  ∀ (p : Config.OpenParams) (xs : List Stimulus) (h : Shell),
    runEvents (landedTrace p xs h) h.block = .next (shellRun p xs h).block

/-- R158 and R159: after an acceptance the block is ready again after exactly CMD_LATENCY further edges, whatever the pins
show meanwhile, with the whole effect of the command (R56). That the block's elements keep their old values until then
is the model's choice (log entry 6). -/
def Obligations.BlockBecomesReadyAgain : Prop :=
  ∀ (p : Config.OpenParams) (pins : Pins) (later : List Pins) (h : Shell) (w : Word),
    cmdReady h = true → pins.cmdValid = true → pins.cmd = w → resetAsserted p.resetStyle pins.rst = false →
    (∀ q ∈ later, resetAsserted p.resetStyle q.rst = false) →
    later.length ≤ p.cmdLatency h.accepted →
    let g := shellRun p (.edge pins :: later.map .edge) h
    if later.length = p.cmdLatency h.accepted then
      cmdReady g = true ∧ acceptCommand w h.block = .next g.block
    else cmdReady g = false ∧ g.block = h.block ∧ sampledOutputs g = none

/-- R150 and R152: reset at an edge, of either style, or between edges when it is asynchronous, sets every element to its
reset value, also while a command is in progress, which is lost. How the pins act, above all an asynchronous reset between
edges, is the model's choice (log entry 12); so is that a command presented at that edge is not counted (log entry 15); the
host's events stay (log entry 8). -/
def Obligations.ResetLosesCommandInProgress : Prop :=
  ∀ (p : Config.OpenParams) (h : Shell),
    (∀ pins : Pins, resetAsserted p.resetStyle pins.rst = true →
      shellStep p (.edge pins) h
        = ⟨⟨1#32, 0#32, 0#12, .idle, false, 0#10, 0#32, false, false, false, h.block.input⟩, none, h.accepted⟩) ∧
    (∀ level : Bool, p.resetStyle.synchronous = false → resetAsserted p.resetStyle level = true →
      shellStep p (.rstLevel level) h
        = ⟨⟨1#32, 0#32, 0#12, .idle, false, 0#10, 0#32, false, false, false, h.block.input⟩, none, h.accepted⟩)

/-! ### The assembler -/

/-- R68: an operand outside 0 to 65535 is an assembly error, not a command; inside, the line is the command's word. -/
def Obligations.AssemblerChecksImmediates : Prop :=
  ∀ (m : Mode) (v : Nat),
    (lineWords m (.feed v) = if v ≤ 65535 then some [BitVec.ofNat 32 (0x20000000 + v)] else none) ∧
    (lineWords m (.nop v) = if v ≤ 65535 then some [BitVec.ofNat 32 v] else none)

/-- R69: each pseudo-command CHECKSUM_… assembles as START, FEEDS, FINISH, and so to exactly their words; FEEDS as its
FEEDs, and as nothing when it has none (log entry 9); FEEDSTR as one FEED for each character's code of an ASCII string in
BYTES and BSTR modes and one for each UTF-16 code unit in TEXT mode (the UTF-16 form is the spec's general knowledge, log
entry 14), and an assembly error elsewhere (log entry 9). RESULT after running a CHECKSUM's expansion is the Adler-32 of the
message's units (R87, which the spec derives). -/
def Obligations.PseudoCommandsExpand : Prop :=
  (∀ (m k : Mode) (vs : List Nat) (ls : List AsmLine),
    assemble m (.checksum k vs :: ls) = assemble m (.start k :: .feeds vs :: .finish :: ls)) ∧
  (∀ (m : Mode) (v : Nat) (vs : List Nat) (ls : List AsmLine),
    assemble m (.feeds (v :: vs) :: ls) = assemble m (.feed v :: .feeds vs :: ls)) ∧
  (∀ (m : Mode) (ls : List AsmLine), assemble m (.feeds [] :: ls) = assemble m ls) ∧
  (∀ (m k : Mode) (vs : List Nat), k.opens = true → (∀ v ∈ vs, v ≤ 65535) →
    assemble m [.checksum k vs]
      = some (startWord k :: (vs.map (fun v => BitVec.ofNat 32 (0x20000000 + v)) ++ [0x30000000#32]))) ∧
  (∀ (m : Mode) (s : List Char) (ls : List AsmLine), m = .bytes ∨ m = .bstr →
    assemble m (.feedStr s :: ls)
      = if ∀ c ∈ s, c.toNat < 128 then assemble m (.feeds (s.map Char.toNat) :: ls) else none) ∧
  (∀ (s : List Char) (ls : List AsmLine),
    assemble .text (.feedStr s :: ls) = assemble .text (.feeds ((utf16 s).map BitVec.toNat) :: ls)) ∧
  (∀ (s : List Char) (ls : List AsmLine), assemble .idle (.feedStr s :: ls) = none) ∧
  (∀ (k : Mode) (vs : List Nat) (ws : List Word) (s : State),
    assemble .idle [.checksum k vs] = some ws →
    ∃ t, runEvents (ws.map .command) s = .next t ∧
      t.result = adler32 (messageUnits k (vs.map (BitVec.ofNat 16))))
end

