-- ==== Sys2Proof/Laws/State.lean ====
section
/-! SUPPORT. One lemma for each field of each update of the state (spec/10_state.md R20, R37): every later proof reads a field
through these and unfolds no record. -/

namespace Sys2Proof.Machine

@[simp] theorem setIll_a (s : State) : (setIll s).a = s.a := rfl
@[simp] theorem setIll_b (s : State) : (setIll s).b = s.b := rfl
@[simp] theorem setIll_cnt (s : State) : (setIll s).cnt = s.cnt := rfl
@[simp] theorem setIll_mode (s : State) : (setIll s).mode = s.mode := rfl
@[simp] theorem setIll_pend (s : State) : (setIll s).pend = s.pend := rfl
@[simp] theorem setIll_lead (s : State) : (setIll s).lead = s.lead := rfl
@[simp] theorem setIll_result (s : State) : (setIll s).result = s.result := rfl
@[simp] theorem setIll_done (s : State) : (setIll s).done = s.done := rfl
@[simp] theorem setIll_ill (s : State) : (setIll s).ill = true := rfl
@[simp] theorem setIll_inv (s : State) : (setIll s).inv = s.inv := rfl
@[simp] theorem setIll_input (s : State) : (setIll s).input = s.input := rfl

@[simp] theorem setInvIf_a (c : Bool) (s : State) : (setInvIf c s).a = s.a := rfl
@[simp] theorem setInvIf_b (c : Bool) (s : State) : (setInvIf c s).b = s.b := rfl
@[simp] theorem setInvIf_cnt (c : Bool) (s : State) : (setInvIf c s).cnt = s.cnt := rfl
@[simp] theorem setInvIf_mode (c : Bool) (s : State) : (setInvIf c s).mode = s.mode := rfl
@[simp] theorem setInvIf_pend (c : Bool) (s : State) : (setInvIf c s).pend = s.pend := rfl
@[simp] theorem setInvIf_lead (c : Bool) (s : State) : (setInvIf c s).lead = s.lead := rfl
@[simp] theorem setInvIf_result (c : Bool) (s : State) : (setInvIf c s).result = s.result := rfl
@[simp] theorem setInvIf_done (c : Bool) (s : State) : (setInvIf c s).done = s.done := rfl
@[simp] theorem setInvIf_ill (c : Bool) (s : State) : (setInvIf c s).ill = s.ill := rfl
@[simp] theorem setInvIf_inv (c : Bool) (s : State) : (setInvIf c s).inv = (s.inv || c) := rfl
@[simp] theorem setInvIf_input (c : Bool) (s : State) : (setInvIf c s).input = s.input := rfl

@[simp] theorem refuse_a (r : RefuseReason) (s : State) : (refuse r s).a = s.a := rfl
@[simp] theorem refuse_b (r : RefuseReason) (s : State) : (refuse r s).b = s.b := rfl
@[simp] theorem refuse_cnt (r : RefuseReason) (s : State) : (refuse r s).cnt = s.cnt := rfl
@[simp] theorem refuse_mode (r : RefuseReason) (s : State) : (refuse r s).mode = s.mode := rfl
@[simp] theorem refuse_pend (r : RefuseReason) (s : State) : (refuse r s).pend = s.pend := rfl
@[simp] theorem refuse_lead (r : RefuseReason) (s : State) : (refuse r s).lead = s.lead := rfl
@[simp] theorem refuse_result (r : RefuseReason) (s : State) : (refuse r s).result = s.result := rfl
@[simp] theorem refuse_done (r : RefuseReason) (s : State) : (refuse r s).done = s.done := rfl
@[simp] theorem refuse_ill (r : RefuseReason) (s : State) : (refuse r s).ill = true := rfl
@[simp] theorem refuse_inv (r : RefuseReason) (s : State) : (refuse r s).inv = s.inv := rfl
@[simp] theorem refuse_input (r : RefuseReason) (s : State) : (refuse r s).input = s.input := rfl

@[simp] theorem reduce_a (s : State) : (reduce s).a = fold s.a := rfl
@[simp] theorem reduce_b (s : State) : (reduce s).b = fold s.b := rfl
@[simp] theorem reduce_cnt (s : State) : (reduce s).cnt = s.cnt := rfl
@[simp] theorem reduce_mode (s : State) : (reduce s).mode = s.mode := rfl
@[simp] theorem reduce_pend (s : State) : (reduce s).pend = s.pend := rfl
@[simp] theorem reduce_lead (s : State) : (reduce s).lead = s.lead := rfl
@[simp] theorem reduce_result (s : State) : (reduce s).result = s.result := rfl
@[simp] theorem reduce_done (s : State) : (reduce s).done = s.done := rfl
@[simp] theorem reduce_ill (s : State) : (reduce s).ill = s.ill := rfl
@[simp] theorem reduce_inv (s : State) : (reduce s).inv = s.inv := rfl
@[simp] theorem reduce_input (s : State) : (reduce s).input = s.input := rfl

@[simp] theorem addUnit_a (v : Byte) (s : State) : (addUnit v s).a = s.a + v.setWidth 32 := rfl
@[simp] theorem addUnit_b (v : Byte) (s : State) : (addUnit v s).b = s.b + (s.a + v.setWidth 32) := rfl
@[simp] theorem addUnit_cnt (v : Byte) (s : State) : (addUnit v s).cnt = s.cnt + 1#12 := rfl
@[simp] theorem addUnit_mode (v : Byte) (s : State) : (addUnit v s).mode = s.mode := rfl
@[simp] theorem addUnit_pend (v : Byte) (s : State) : (addUnit v s).pend = s.pend := rfl
@[simp] theorem addUnit_lead (v : Byte) (s : State) : (addUnit v s).lead = s.lead := rfl
@[simp] theorem addUnit_result (v : Byte) (s : State) : (addUnit v s).result = s.result := rfl
@[simp] theorem addUnit_done (v : Byte) (s : State) : (addUnit v s).done = s.done := rfl
@[simp] theorem addUnit_ill (v : Byte) (s : State) : (addUnit v s).ill = s.ill := rfl
@[simp] theorem addUnit_inv (v : Byte) (s : State) : (addUnit v s).inv = s.inv := rfl
@[simp] theorem addUnit_input (v : Byte) (s : State) : (addUnit v s).input = s.input := rfl

@[simp] theorem final_a (s : State) : (final s).a = s.a := rfl
@[simp] theorem final_b (s : State) : (final s).b = s.b := rfl
@[simp] theorem final_cnt (s : State) : (final s).cnt = s.cnt := rfl
@[simp] theorem final_mode (s : State) : (final s).mode = s.mode := rfl
@[simp] theorem final_pend (s : State) : (final s).pend = s.pend := rfl
@[simp] theorem final_lead (s : State) : (final s).lead = s.lead := rfl
@[simp] theorem final_result (s : State) : (final s).result = checksumOf s.a s.b := rfl
@[simp] theorem final_done (s : State) : (final s).done = s.done := rfl
@[simp] theorem final_ill (s : State) : (final s).ill = s.ill := rfl
@[simp] theorem final_inv (s : State) : (final s).inv = s.inv := rfl
@[simp] theorem final_input (s : State) : (final s).input = s.input := rfl

@[simp] theorem clearPend_a (s : State) : (clearPend s).a = s.a := rfl
@[simp] theorem clearPend_b (s : State) : (clearPend s).b = s.b := rfl
@[simp] theorem clearPend_cnt (s : State) : (clearPend s).cnt = s.cnt := rfl
@[simp] theorem clearPend_mode (s : State) : (clearPend s).mode = s.mode := rfl
@[simp] theorem clearPend_pend (s : State) : (clearPend s).pend = false := rfl
@[simp] theorem clearPend_lead (s : State) : (clearPend s).lead = s.lead := rfl
@[simp] theorem clearPend_result (s : State) : (clearPend s).result = s.result := rfl
@[simp] theorem clearPend_done (s : State) : (clearPend s).done = s.done := rfl
@[simp] theorem clearPend_ill (s : State) : (clearPend s).ill = s.ill := rfl
@[simp] theorem clearPend_inv (s : State) : (clearPend s).inv = s.inv := rfl
@[simp] theorem clearPend_input (s : State) : (clearPend s).input = s.input := rfl

@[simp] theorem latchLead_a (u : Elem) (s : State) : (latchLead u s).a = s.a := rfl
@[simp] theorem latchLead_b (u : Elem) (s : State) : (latchLead u s).b = s.b := rfl
@[simp] theorem latchLead_cnt (u : Elem) (s : State) : (latchLead u s).cnt = s.cnt := rfl
@[simp] theorem latchLead_mode (u : Elem) (s : State) : (latchLead u s).mode = s.mode := rfl
@[simp] theorem latchLead_pend (u : Elem) (s : State) : (latchLead u s).pend = true := rfl
@[simp] theorem latchLead_lead (u : Elem) (s : State) : (latchLead u s).lead = leadBits u := rfl
@[simp] theorem latchLead_result (u : Elem) (s : State) : (latchLead u s).result = s.result := rfl
@[simp] theorem latchLead_done (u : Elem) (s : State) : (latchLead u s).done = s.done := rfl
@[simp] theorem latchLead_ill (u : Elem) (s : State) : (latchLead u s).ill = s.ill := rfl
@[simp] theorem latchLead_inv (u : Elem) (s : State) : (latchLead u s).inv = s.inv := rfl
@[simp] theorem latchLead_input (u : Elem) (s : State) : (latchLead u s).input = s.input := rfl

@[simp] theorem closeMessage_a (s : State) : (closeMessage s).a = s.a := rfl
@[simp] theorem closeMessage_b (s : State) : (closeMessage s).b = s.b := rfl
@[simp] theorem closeMessage_cnt (s : State) : (closeMessage s).cnt = s.cnt := rfl
@[simp] theorem closeMessage_mode (s : State) : (closeMessage s).mode = .idle := rfl
@[simp] theorem closeMessage_pend (s : State) : (closeMessage s).pend = s.pend := rfl
@[simp] theorem closeMessage_lead (s : State) : (closeMessage s).lead = s.lead := rfl
@[simp] theorem closeMessage_result (s : State) : (closeMessage s).result = s.result := rfl
@[simp] theorem closeMessage_done (s : State) : (closeMessage s).done = true := rfl
@[simp] theorem closeMessage_ill (s : State) : (closeMessage s).ill = s.ill := rfl
@[simp] theorem closeMessage_inv (s : State) : (closeMessage s).inv = s.inv := rfl
@[simp] theorem closeMessage_input (s : State) : (closeMessage s).input = s.input := rfl

@[simp] theorem startMessage_a (m : Mode) (s : State) : (startMessage m s).a = 1#32 := rfl
@[simp] theorem startMessage_b (m : Mode) (s : State) : (startMessage m s).b = 0#32 := rfl
@[simp] theorem startMessage_cnt (m : Mode) (s : State) : (startMessage m s).cnt = 0#12 := rfl
@[simp] theorem startMessage_mode (m : Mode) (s : State) : (startMessage m s).mode = m := rfl
@[simp] theorem startMessage_pend (m : Mode) (s : State) : (startMessage m s).pend = false := rfl
@[simp] theorem startMessage_lead (m : Mode) (s : State) : (startMessage m s).lead = 0#10 := rfl
@[simp] theorem startMessage_result (m : Mode) (s : State) : (startMessage m s).result = s.result := rfl
@[simp] theorem startMessage_done (m : Mode) (s : State) : (startMessage m s).done = false := rfl
@[simp] theorem startMessage_ill (m : Mode) (s : State) : (startMessage m s).ill = s.ill := rfl
@[simp] theorem startMessage_inv (m : Mode) (s : State) : (startMessage m s).inv = false := rfl
@[simp] theorem startMessage_input (m : Mode) (s : State) : (startMessage m s).input = s.input := rfl

@[simp] theorem resetBlock_a (s : State) : (resetBlock s).a = State.reset.a := rfl
@[simp] theorem resetBlock_b (s : State) : (resetBlock s).b = State.reset.b := rfl
@[simp] theorem resetBlock_cnt (s : State) : (resetBlock s).cnt = State.reset.cnt := rfl
@[simp] theorem resetBlock_mode (s : State) : (resetBlock s).mode = State.reset.mode := rfl
@[simp] theorem resetBlock_pend (s : State) : (resetBlock s).pend = State.reset.pend := rfl
@[simp] theorem resetBlock_lead (s : State) : (resetBlock s).lead = State.reset.lead := rfl
@[simp] theorem resetBlock_result (s : State) : (resetBlock s).result = State.reset.result := rfl
@[simp] theorem resetBlock_done (s : State) : (resetBlock s).done = State.reset.done := rfl
@[simp] theorem resetBlock_ill (s : State) : (resetBlock s).ill = State.reset.ill := rfl
@[simp] theorem resetBlock_inv (s : State) : (resetBlock s).inv = State.reset.inv := rfl
@[simp] theorem resetBlock_input (s : State) : (resetBlock s).input = s.input := rfl

@[simp] theorem withInput_a (es : List HostEvent) (s : State) : (withInput es s).a = s.a := rfl
@[simp] theorem withInput_b (es : List HostEvent) (s : State) : (withInput es s).b = s.b := rfl
@[simp] theorem withInput_cnt (es : List HostEvent) (s : State) : (withInput es s).cnt = s.cnt := rfl
@[simp] theorem withInput_mode (es : List HostEvent) (s : State) : (withInput es s).mode = s.mode := rfl
@[simp] theorem withInput_pend (es : List HostEvent) (s : State) : (withInput es s).pend = s.pend := rfl
@[simp] theorem withInput_lead (es : List HostEvent) (s : State) : (withInput es s).lead = s.lead := rfl
@[simp] theorem withInput_result (es : List HostEvent) (s : State) : (withInput es s).result = s.result := rfl
@[simp] theorem withInput_done (es : List HostEvent) (s : State) : (withInput es s).done = s.done := rfl
@[simp] theorem withInput_ill (es : List HostEvent) (s : State) : (withInput es s).ill = s.ill := rfl
@[simp] theorem withInput_inv (es : List HostEvent) (s : State) : (withInput es s).inv = s.inv := rfl
@[simp] theorem withInput_input (es : List HostEvent) (s : State) : (withInput es s).input = es := rfl

end Sys2Proof.Machine
end

