-- ==== Sys2Proof/Laws/Ops.lean ====
section
/-! SUPPORT. What the shared operations can do, said once: the engine's operations touch `A`, `B`, `CNT` only and depend on
nothing else (spec/10_state.md R37, spec/40_core_engine.md R80 to R86). -/

namespace Sys2Proof.Machine

/-- The three elements the engine works on. -/
structure Sums where
  a : Word
  b : Word
  cnt : Count
  deriving DecidableEq, Repr

/-- The state's sums. -/
def sumsOf (s : State) : Sums := ⟨s.a, s.b, s.cnt⟩

/-- The state with other sums. -/
def withSums (x : Sums) (s : State) : State := { s with a := x.a, b := x.b, cnt := x.cnt }

/-- `ACC` on the sums alone. -/
def accSums (v : Byte) (x : Sums) : Sums :=
  if x.cnt + 1#12 = Config.blockLength then
    ⟨fold (x.a + v.setWidth 32), fold (x.b + (x.a + v.setWidth 32)), 0#12⟩
  else ⟨x.a + v.setWidth 32, x.b + (x.a + v.setWidth 32), x.cnt + 1#12⟩

/-- `ACC` of several bytes on the sums alone. -/
def accAllSums (vs : List Byte) (x : Sums) : Sums := vs.foldl (fun y v => accSums v y) x

@[simp] theorem withSums_sumsOf (s : State) : withSums (sumsOf s) s = s := rfl
@[simp] theorem sumsOf_withSums (x : Sums) (s : State) : sumsOf (withSums x s) = x := rfl
@[simp] theorem withSums_withSums (x y : Sums) (s : State) : withSums x (withSums y s) = withSums x s := rfl
@[simp] theorem withSums_mode (x : Sums) (s : State) : (withSums x s).mode = s.mode := rfl
@[simp] theorem withSums_pend (x : Sums) (s : State) : (withSums x s).pend = s.pend := rfl
@[simp] theorem withSums_lead (x : Sums) (s : State) : (withSums x s).lead = s.lead := rfl
@[simp] theorem withSums_result (x : Sums) (s : State) : (withSums x s).result = s.result := rfl
@[simp] theorem withSums_done (x : Sums) (s : State) : (withSums x s).done = s.done := rfl
@[simp] theorem withSums_ill (x : Sums) (s : State) : (withSums x s).ill = s.ill := rfl
@[simp] theorem withSums_inv (x : Sums) (s : State) : (withSums x s).inv = s.inv := rfl
@[simp] theorem withSums_input (x : Sums) (s : State) : (withSums x s).input = s.input := rfl

/-- Everything `ACC` can do: it replaces the sums, by a function of the sums and the unit (R80). -/
theorem acc_eq_withSums (v : Byte) (s : State) : acc v s = withSums (accSums v (sumsOf s)) s := by
  unfold acc endBlockIfFull accSums sumsOf withSums addUnit reduce
  split <;> rfl

@[simp] theorem accAll_nil (s : State) : accAll [] s = s := rfl
@[simp] theorem accAll_cons (v : Byte) (vs : List Byte) (s : State) :
    accAll (v :: vs) s = accAll vs (acc v s) := rfl
theorem accAll_append (vs ws : List Byte) (s : State) : accAll (vs ++ ws) s = accAll ws (accAll vs s) := by
  simp [accAll]
@[simp] theorem accAllSums_nil (x : Sums) : accAllSums [] x = x := rfl
@[simp] theorem accAllSums_cons (v : Byte) (vs : List Byte) (x : Sums) :
    accAllSums (v :: vs) x = accAllSums vs (accSums v x) := rfl
theorem accAllSums_append (vs ws : List Byte) (x : Sums) :
    accAllSums (vs ++ ws) x = accAllSums ws (accAllSums vs x) := by
  simp [accAllSums]

/-- Everything a run of `ACC`s can do. -/
theorem accAll_eq_withSums (vs : List Byte) (s : State) :
    accAll vs s = withSums (accAllSums vs (sumsOf s)) s := by
  induction vs generalizing s with
  | nil => rfl
  | cons v vs ih => rw [accAll_cons, ih, acc_eq_withSums]; rfl

/-- Everything `EMIT4` can do (R117). -/
theorem emit4_eq (t : Elem) (s : State) :
    emit4 t s
      = { withSums (accAllSums (fourBytes (pairCodePoint s.lead t)) (sumsOf s)) s with pend := false } := by
  rw [emit4, accAll_eq_withSums]; rfl

/-- Everything `FLUSH` can do (R119). -/
theorem flush_eq (s : State) :
    flush s = { emit4 0#16 s with inv := true } := by
  rw [flush, emit4_eq, emit4_eq]
  simp [setInvIf, withSums, sumsOf]

/-- Everything the end of a partial block can do (R90). -/
theorem endPartialBlock_eq (s : State) :
    endPartialBlock s
      = withSums (if s.cnt = 0#12 then sumsOf s else ⟨fold s.a, fold s.b, 0#12⟩) s := by
  unfold endPartialBlock
  split <;> rfl

/-- `CNT` is 0 once the partial block is ended (R90). -/
@[simp] theorem endPartialBlock_cnt (s : State) : (endPartialBlock s).cnt = 0#12 := by
  unfold endPartialBlock
  split
  · assumption
  · rfl

end Sys2Proof.Machine
end

