-- ==== Sys2Proof/Laws/Fields.lean ====
section
/-! SUPPORT. The fields that the engine's operations leave alone (spec/10_state.md R37), one lemma each. -/

namespace Sys2Proof.Machine

@[simp] theorem acc_mode (v : Byte) (s : State) : (acc v s).mode = s.mode := by rw [acc_eq_withSums]; rfl
@[simp] theorem acc_pend (v : Byte) (s : State) : (acc v s).pend = s.pend := by rw [acc_eq_withSums]; rfl
@[simp] theorem acc_lead (v : Byte) (s : State) : (acc v s).lead = s.lead := by rw [acc_eq_withSums]; rfl
@[simp] theorem acc_result (v : Byte) (s : State) : (acc v s).result = s.result := by rw [acc_eq_withSums]; rfl
@[simp] theorem acc_done (v : Byte) (s : State) : (acc v s).done = s.done := by rw [acc_eq_withSums]; rfl
@[simp] theorem acc_ill (v : Byte) (s : State) : (acc v s).ill = s.ill := by rw [acc_eq_withSums]; rfl
@[simp] theorem acc_inv (v : Byte) (s : State) : (acc v s).inv = s.inv := by rw [acc_eq_withSums]; rfl
@[simp] theorem acc_input (v : Byte) (s : State) : (acc v s).input = s.input := by rw [acc_eq_withSums]; rfl

@[simp] theorem accAll_mode (vs : List Byte) (s : State) : (accAll vs s).mode = s.mode := by rw [accAll_eq_withSums]; rfl
@[simp] theorem accAll_pend (vs : List Byte) (s : State) : (accAll vs s).pend = s.pend := by rw [accAll_eq_withSums]; rfl
@[simp] theorem accAll_lead (vs : List Byte) (s : State) : (accAll vs s).lead = s.lead := by rw [accAll_eq_withSums]; rfl
@[simp] theorem accAll_result (vs : List Byte) (s : State) : (accAll vs s).result = s.result := by rw [accAll_eq_withSums]; rfl
@[simp] theorem accAll_done (vs : List Byte) (s : State) : (accAll vs s).done = s.done := by rw [accAll_eq_withSums]; rfl
@[simp] theorem accAll_ill (vs : List Byte) (s : State) : (accAll vs s).ill = s.ill := by rw [accAll_eq_withSums]; rfl
@[simp] theorem accAll_inv (vs : List Byte) (s : State) : (accAll vs s).inv = s.inv := by rw [accAll_eq_withSums]; rfl
@[simp] theorem accAll_input (vs : List Byte) (s : State) : (accAll vs s).input = s.input := by rw [accAll_eq_withSums]; rfl

@[simp] theorem emit4_mode (t : Elem) (s : State) : (emit4 t s).mode = s.mode := by simp [emit4]
@[simp] theorem emit4_pend (t : Elem) (s : State) : (emit4 t s).pend = false := rfl
@[simp] theorem emit4_lead (t : Elem) (s : State) : (emit4 t s).lead = s.lead := by simp [emit4]
@[simp] theorem emit4_result (t : Elem) (s : State) : (emit4 t s).result = s.result := by simp [emit4]
@[simp] theorem emit4_done (t : Elem) (s : State) : (emit4 t s).done = s.done := by simp [emit4]
@[simp] theorem emit4_ill (t : Elem) (s : State) : (emit4 t s).ill = s.ill := by simp [emit4]
@[simp] theorem emit4_inv (t : Elem) (s : State) : (emit4 t s).inv = s.inv := by simp [emit4]
@[simp] theorem emit4_input (t : Elem) (s : State) : (emit4 t s).input = s.input := by simp [emit4]

@[simp] theorem flush_mode (s : State) : (flush s).mode = s.mode := by simp [flush]
@[simp] theorem flush_pend (s : State) : (flush s).pend = false := rfl
@[simp] theorem flush_lead (s : State) : (flush s).lead = s.lead := by simp [flush]
@[simp] theorem flush_result (s : State) : (flush s).result = s.result := by simp [flush]
@[simp] theorem flush_done (s : State) : (flush s).done = s.done := by simp [flush]
@[simp] theorem flush_ill (s : State) : (flush s).ill = s.ill := by simp [flush]
@[simp] theorem flush_inv (s : State) : (flush s).inv = true := by simp [flush]
@[simp] theorem flush_input (s : State) : (flush s).input = s.input := by simp [flush]

@[simp] theorem endPartialBlock_mode (s : State) : (endPartialBlock s).mode = s.mode := by rw [endPartialBlock_eq]; rfl
@[simp] theorem endPartialBlock_pend (s : State) : (endPartialBlock s).pend = s.pend := by rw [endPartialBlock_eq]; rfl
@[simp] theorem endPartialBlock_lead (s : State) : (endPartialBlock s).lead = s.lead := by rw [endPartialBlock_eq]; rfl
@[simp] theorem endPartialBlock_result (s : State) : (endPartialBlock s).result = s.result := by rw [endPartialBlock_eq]; rfl
@[simp] theorem endPartialBlock_done (s : State) : (endPartialBlock s).done = s.done := by rw [endPartialBlock_eq]; rfl
@[simp] theorem endPartialBlock_ill (s : State) : (endPartialBlock s).ill = s.ill := by rw [endPartialBlock_eq]; rfl
@[simp] theorem endPartialBlock_inv (s : State) : (endPartialBlock s).inv = s.inv := by rw [endPartialBlock_eq]; rfl
@[simp] theorem endPartialBlock_input (s : State) : (endPartialBlock s).input = s.input := by rw [endPartialBlock_eq]; rfl

/-! The sums after each operation. -/

@[simp] theorem sumsOf_a (s : State) : (sumsOf s).a = s.a := rfl
@[simp] theorem sumsOf_b (s : State) : (sumsOf s).b = s.b := rfl
@[simp] theorem sumsOf_cnt (s : State) : (sumsOf s).cnt = s.cnt := rfl
@[simp] theorem sumsOf_setInvIf (c : Bool) (s : State) : sumsOf (setInvIf c s) = sumsOf s := rfl
@[simp] theorem sumsOf_clearPend (s : State) : sumsOf (clearPend s) = sumsOf s := rfl
@[simp] theorem sumsOf_latchLead (u : Elem) (s : State) : sumsOf (latchLead u s) = sumsOf s := rfl
@[simp] theorem sumsOf_acc (v : Byte) (s : State) : sumsOf (acc v s) = accSums v (sumsOf s) := by
  rw [acc_eq_withSums]; rfl
@[simp] theorem sumsOf_accAll (vs : List Byte) (s : State) : sumsOf (accAll vs s) = accAllSums vs (sumsOf s) := by
  rw [accAll_eq_withSums]; rfl
@[simp] theorem sumsOf_emit4 (t : Elem) (s : State) :
    sumsOf (emit4 t s) = accAllSums (fourBytes (pairCodePoint s.lead t)) (sumsOf s) := by
  simp [emit4]
@[simp] theorem sumsOf_flush (s : State) :
    sumsOf (flush s) = accAllSums (fourBytes (pairCodePoint s.lead 0#16)) (sumsOf s) := by
  simp [flush]
@[simp] theorem sumsOf_endPartialBlock (s : State) :
    sumsOf (endPartialBlock s) = if s.cnt = 0#12 then sumsOf s else ⟨fold s.a, fold s.b, 0#12⟩ := by
  rw [endPartialBlock_eq, sumsOf_withSums]

/-! The operations commute with a change of the host's events. -/

theorem setInvIf_withInput (c : Bool) (es : List HostEvent) (s : State) :
    setInvIf c (withInput es s) = withInput es (setInvIf c s) := rfl
theorem latchLead_withInput (u : Elem) (es : List HostEvent) (s : State) :
    latchLead u (withInput es s) = withInput es (latchLead u s) := rfl
theorem acc_withInput (v : Byte) (es : List HostEvent) (s : State) :
    acc v (withInput es s) = withInput es (acc v s) := by
  rw [acc_eq_withSums, acc_eq_withSums]; rfl
theorem accAll_withInput (vs : List Byte) (es : List HostEvent) (s : State) :
    accAll vs (withInput es s) = withInput es (accAll vs s) := by
  rw [accAll_eq_withSums, accAll_eq_withSums]; rfl
theorem emit4_withInput (t : Elem) (es : List HostEvent) (s : State) :
    emit4 t (withInput es s) = withInput es (emit4 t s) := by
  simp only [emit4, withInput_lead, accAll_withInput]; rfl

end Sys2Proof.Machine
end

