-- ==== Sys2Proof/Laws/Step.lean ====
section
/-! SUPPORT. What a step can do, said once: the inversion lemmas of `exec` and `step`. -/

namespace Sys2Proof.Machine

/-- What FEED does in each mode (R100). -/
theorem feedEffect_idle (d : Elem) (s : State) (h : s.mode = .idle) : feedEffect d s = refuse .noMessage s := by
  simp [feedEffect, h]
theorem feedEffect_bytes (d : Elem) (s : State) (h : s.mode = .bytes) : feedEffect d s = feedBytes d s := by
  simp [feedEffect, h]
theorem feedEffect_bstr (d : Elem) (s : State) (h : s.mode = .bstr) : feedEffect d s = feedBstr d s := by
  simp [feedEffect, h]
theorem feedEffect_text (d : Elem) (s : State) (h : s.mode = .text) : feedEffect d s = feedText d s := by
  simp [feedEffect, h]

/-- What FINISH does with no message open, and with one (R90, R132). -/
theorem finishEffect_idle (s : State) (h : s.mode = .idle) : finishEffect s = refuse .noMessage s := by
  simp [finishEffect, h]
theorem finishEffect_open (s : State) (h : s.mode ≠ .idle) : finishEffect s = finishMessage s := by
  cases hm : s.mode <;> simp_all [finishEffect]

/-- The effect of a command as a function on states: the one place that says what each arm of `exec` answers. -/
def effect (i : Instr) (s : State) : State :=
  match i with
  | .nop _ => s
  | .startBytes => startMessage .bytes s
  | .startBstr => startMessage .bstr s
  | .startText => startMessage .text s
  | .feed d => feedEffect d s
  | .finish => finishEffect s

/-- `exec` inverted: if it answers `t`, then `t` is the command's effect. -/
theorem exec_inv {i : Instr} {s t : State} (h : exec i s = .next t) : t = effect i s := by
  cases i <;> exact (Host.Outcome.next.inj h).symm

/-- An accepted FEED or FINISH finds a message open, so its effect is that of the open message (R66, R132). -/
theorem decode_accepted_open {w : Word} {m : Mode} {i : Instr} (h : decode w m = .accepted i)
    (hn : i.needsMessage = true) : m ≠ .idle := by
  unfold decode at h
  split at h
  · cases h
  · split at h
    · cases h
    · rename_i hc
      cases h
      exact fun hm => hc ⟨hn, hm⟩

/-- A step inverted: which event was taken and what it did. -/
theorem step_cases {s t : State} (h : step s = .next t) :
    (s.input = [] ∧ t = s) ∨
    (∃ rest, s.input = .idle :: rest ∧ t = withInput rest s) ∨
    (∃ rest, s.input = .reset :: rest ∧ t = withInput rest State.reset) ∨
    (∃ w rest r, s.input = .command w :: rest ∧ decode w s.mode = .refused r ∧
      t = withInput rest (setIll s)) ∨
    (∃ w rest i, s.input = .command w :: rest ∧ decode w s.mode = .accepted i ∧
      t = effect i (withInput rest s)) := by
  unfold step nextEvent at h
  cases hin : s.input with
  | nil => simp only [hin] at h; exact .inl ⟨rfl, (Host.Outcome.next.inj h).symm⟩
  | cons e rest =>
    simp only [hin] at h
    cases e with
    | idle => exact .inr (.inl ⟨rest, rfl, (Host.Outcome.next.inj h).symm⟩)
    | reset => exact .inr (.inr (.inl ⟨rest, rfl, (Host.Outcome.next.inj h).symm⟩))
    | command w =>
      simp only [takeEvent, acceptCommand, withInput_mode] at h
      cases hd : decode w s.mode with
      | refused r =>
        simp only [hd] at h
        exact .inr (.inr (.inr (.inl ⟨w, rest, r, rfl, hd, (Host.Outcome.next.inj h).symm⟩)))
      | accepted i =>
        simp only [hd] at h
        exact .inr (.inr (.inr (.inr ⟨w, rest, i, rfl, hd, exec_inv h⟩)))

end Sys2Proof.Machine
end

