-- ==== Sys2Proof/Laws/Commands.lean ====
section
/-! SUPPORT. What FEED and FINISH do to each element they may write, and what they leave alone (spec/10_state.md R37). -/

namespace Sys2Proof.Machine

/-- Everything FEED can do in BYTES and BSTR modes (R101, R102). -/
theorem feedBytes_eq (d : Elem) (s : State) :
    feedBytes d s
      = { withSums (accSums (byteOperand d) (sumsOf s)) s with inv := s.inv || outsideByteRange d } := by
  rw [feedBytes, acc_eq_withSums]; rfl

theorem feedBstr_eq (d : Elem) (s : State) :
    feedBstr d s
      = { withSums (accSums (byteOperand d) (sumsOf s)) s with inv := s.inv || outsideByteRange d } := by
  rw [feedBstr, acc_eq_withSums]; rfl

/-- Everything a trail can do (R116, R117). -/
theorem trail_eq (t : Elem) (s : State) :
    trail t s
      = { withSums (accAllSums (fourBytes (pairCodePoint s.lead t)) (sumsOf s)) s with
          pend := false, inv := s.inv || invTrail t } := by
  rw [trail, emit4_eq]; rfl

/-- Everything a lead can do (R115). -/
theorem leadIn_eq (u : Elem) (s : State) :
    leadIn u s = { s with lead := leadBits u, pend := true, inv := s.inv || invLead u } := rfl

/-- The cases of FEED in TEXT mode (R110): a trail, a lead, or the bytes of a plain unit. -/
theorem feedText_cases (u : Elem) (s : State) :
    (s.pend = true ∧ feedText u s = trail u s) ∨
    (s.pend = false ∧ isSurrogate u = true ∧ feedText u s = leadIn u s) ∨
    (s.pend = false ∧ isSurrogate u = false ∧ feedText u s = accAll (plainBytes u) s) := by
  unfold feedText plainBytes
  cases s.pend
  · by_cases h1 : isOneByte u = true
    · have h2 : isSurrogate u = false := by
        simp only [isOneByte, isSurrogate, decide_eq_true_eq, Bool.and_eq_false_iff, decide_eq_false_iff_not] at *
        left; bv_omega
      simp [h1, h2]
    · by_cases h3 : isTwoByte u = true
      · have h2 : isSurrogate u = false := by
          simp only [isTwoByte, isSurrogate, decide_eq_true_eq, Bool.and_eq_false_iff, decide_eq_false_iff_not] at *
          left; bv_omega
        simp [h1, h2, h3]
      · cases h2 : isSurrogate u <;> simp [h1, h3]
  · simp

@[simp] theorem sumsOf_trail (t : Elem) (s : State) :
    sumsOf (trail t s) = accAllSums (fourBytes (pairCodePoint s.lead t)) (sumsOf s) := by
  simp [trail]
@[simp] theorem sumsOf_leadIn (u : Elem) (s : State) : sumsOf (leadIn u s) = sumsOf s := rfl

@[simp] theorem feedText_mode (u : Elem) (s : State) : (feedText u s).mode = s.mode := by
  rcases feedText_cases u s with ⟨_, h⟩ | ⟨_, _, h⟩ | ⟨_, _, h⟩ <;> rw [h] <;> simp [trail, leadIn]
@[simp] theorem feedText_result (u : Elem) (s : State) : (feedText u s).result = s.result := by
  rcases feedText_cases u s with ⟨_, h⟩ | ⟨_, _, h⟩ | ⟨_, _, h⟩ <;> rw [h] <;> simp [trail, leadIn]
@[simp] theorem feedText_done (u : Elem) (s : State) : (feedText u s).done = s.done := by
  rcases feedText_cases u s with ⟨_, h⟩ | ⟨_, _, h⟩ | ⟨_, _, h⟩ <;> rw [h] <;> simp [trail, leadIn]
@[simp] theorem feedText_ill (u : Elem) (s : State) : (feedText u s).ill = s.ill := by
  rcases feedText_cases u s with ⟨_, h⟩ | ⟨_, _, h⟩ | ⟨_, _, h⟩ <;> rw [h] <;> simp [trail, leadIn]
@[simp] theorem feedText_input (u : Elem) (s : State) : (feedText u s).input = s.input := by
  rcases feedText_cases u s with ⟨_, h⟩ | ⟨_, _, h⟩ | ⟨_, _, h⟩ <;> rw [h] <;> simp [trail, leadIn]

@[simp] theorem feedEffect_mode (d : Elem) (s : State) : (feedEffect d s).mode = s.mode := by
  cases h : s.mode <;> simp [feedEffect, feedBytes, feedBstr, h]
@[simp] theorem feedEffect_result (d : Elem) (s : State) : (feedEffect d s).result = s.result := by
  cases h : s.mode <;> simp [feedEffect, feedBytes, feedBstr, h]
@[simp] theorem feedEffect_done (d : Elem) (s : State) : (feedEffect d s).done = s.done := by
  cases h : s.mode <;> simp [feedEffect, feedBytes, feedBstr, h]
@[simp] theorem feedEffect_input (d : Elem) (s : State) : (feedEffect d s).input = s.input := by
  cases h : s.mode <;> simp [feedEffect, feedBytes, feedBstr, h]
theorem feedEffect_ill (d : Elem) (s : State) (h : s.mode ≠ .idle) : (feedEffect d s).ill = s.ill := by
  cases hm : s.mode <;> simp_all [feedEffect, feedBytes, feedBstr]

/-- What is left of the state once a pending lead is flushed (R90, R119). -/
@[simp] theorem flushIfPending_pend (s : State) : (flushIfPending s).pend = false := by
  cases h : s.pend <;> simp [flushIfPending, h]
@[simp] theorem flushIfPending_lead (s : State) : (flushIfPending s).lead = s.lead := by
  cases h : s.pend <;> simp [flushIfPending, h]
@[simp] theorem flushIfPending_inv (s : State) : (flushIfPending s).inv = (s.inv || s.pend) := by
  cases h : s.pend <;> simp [flushIfPending, h]
@[simp] theorem flushIfPending_ill (s : State) : (flushIfPending s).ill = s.ill := by
  cases h : s.pend <;> simp [flushIfPending, h]
@[simp] theorem flushIfPending_input (s : State) : (flushIfPending s).input = s.input := by
  cases h : s.pend <;> simp [flushIfPending, h]

@[simp] theorem finishMessage_mode (s : State) : (finishMessage s).mode = .idle := by simp [finishMessage]
@[simp] theorem finishMessage_done (s : State) : (finishMessage s).done = true := by simp [finishMessage]
@[simp] theorem finishMessage_pend (s : State) : (finishMessage s).pend = false := by simp [finishMessage]
@[simp] theorem finishMessage_cnt (s : State) : (finishMessage s).cnt = 0#12 := by simp [finishMessage]
@[simp] theorem finishMessage_lead (s : State) : (finishMessage s).lead = s.lead := by simp [finishMessage]
@[simp] theorem finishMessage_inv (s : State) : (finishMessage s).inv = (s.inv || s.pend) := by
  simp [finishMessage]
@[simp] theorem finishMessage_ill (s : State) : (finishMessage s).ill = s.ill := by simp [finishMessage]
@[simp] theorem finishMessage_input (s : State) : (finishMessage s).input = s.input := by simp [finishMessage]
theorem finishMessage_result (s : State) :
    (finishMessage s).result = checksumOf (finishMessage s).a (finishMessage s).b := by
  simp [finishMessage]

end Sys2Proof.Machine
end

