-- ==== Sys2Proof/Laws/Decode.lean ====
section
/-! SUPPORT. The fields of a word made of a 16-bit head and a 16-bit DATA (spec/30_encoding.md R57). -/

namespace Sys2Proof

/-- The fields of `head | DATA`, the form in which R67 writes a command with an operand. -/
theorem opField_or (hd : Word) (d : Elem) : opField (hd ||| d.setWidth 32) = opField hd := by
  unfold opField
  ext i hi
  simp [BitVec.getLsbD_of_ge d (28 + i) (by omega)]

theorem rsvField_or (hd : Word) (d : Elem) : rsvField (hd ||| d.setWidth 32) = rsvField hd := by
  unfold rsvField
  ext i hi
  simp

theorem dataField_or (hd : Word) (d : Elem) : dataField (hd ||| d.setWidth 32) = dataField hd ||| d := by
  unfold dataField
  ext i hi
  simp [show i < 32 by omega, BitVec.getLsbD_eq_getElem hi]

/-- The fields as numbers: a word is `OP * 2^28 + RSV * 2^16 + DATA`. -/
theorem opField_toNat (w : Word) : (opField w).toNat = w.toNat / 2 ^ 28 := by
  have := w.isLt
  simp only [opField, BitVec.extractLsb'_toNat, Nat.shiftRight_eq_div_pow]
  omega

theorem rsvField_toNat (w : Word) : (rsvField w).toNat = w.toNat / 2 ^ 16 % 2 ^ 12 := by
  simp only [rsvField, BitVec.extractLsb'_toNat, Nat.shiftRight_eq_div_pow]

theorem dataField_toNat (w : Word) : (dataField w).toNat = w.toNat % 2 ^ 16 := by
  simp only [dataField, BitVec.extractLsb'_toNat, Nat.shiftRight_eq_div_pow]
  omega

/-- A command is refused in a mode exactly when its word is refused, or it needs a message and none is open
(R66). -/
theorem decode_of_decodeWord (w : Word) (m : Mode) :
    decode w m = match decodeWord w with
      | .refused r => .refused r
      | .accepted i => if i.needsMessage = true ∧ m = .idle then .refused .noMessage else .accepted i := rfl

end Sys2Proof
end

