-- ==== Sys2Proof/Laws/PerInstr.lean ====
section
/-! SUPPORT. The per-instruction family EncodeFields: every command's word has `RSV` = 0 and an `OP` that is not reserved
(spec/30_encoding.md R57, R58), and every command is well formed. -/

namespace Sys2Proof.Laws.EncodeFields

/-- The encoder leaves the reserved bits 0 and uses no reserved `OP`. -/
def Statement (i : Instr) : Prop :=
  i.wellFormed = true ∧ rsvField (encode i) = 0#12 ∧ opField (encode i) < 4#4

theorem nop (h : Elem) : Statement (.nop h) :=
  ⟨rfl, by rw [encode, rsvField_or]; decide, by rw [encode, opField_or]; decide⟩

theorem startBytes : Statement .startBytes := ⟨rfl, by decide, by decide⟩

theorem startBstr : Statement .startBstr := ⟨rfl, by decide, by decide⟩

theorem startText : Statement .startText := ⟨rfl, by decide, by decide⟩

theorem feed (d : Elem) : Statement (.feed d) :=
  ⟨rfl, by rw [encode, rsvField_or]; decide, by rw [encode, opField_or]; decide⟩

theorem finish : Statement .finish := ⟨rfl, by decide, by decide⟩

end Sys2Proof.Laws.EncodeFields
end

