-- ==== Sys2Proof/Laws/Run.lean ====
section
/-! SUPPORT. Runs over a list of events, said once: the run is the fold of the events' effects, and the host's events yet to come
change no effect (spec/20_memory.md R48, R49). -/

namespace Sys2Proof.Machine

/-- The effect of each event, by cases (R56, R66, R133, R150). -/
theorem eventEffect_idle (s : State) : eventEffect .idle s = s := rfl
theorem eventEffect_reset (s : State) : eventEffect .reset s = resetBlock s := rfl
theorem eventEffect_refused {w : Word} {r : RefuseReason} {s : State} (h : decode w s.mode = .refused r) :
    eventEffect (.command w) s = setIll s := by
  simp only [eventEffect, takeEvent, acceptCommand, h]; rfl
theorem eventEffect_accepted {w : Word} {i : Instr} {s : State} (h : decode w s.mode = .accepted i) :
    eventEffect (.command w) s = effect i s := by
  simp only [eventEffect, takeEvent, acceptCommand, h]; cases i <;> rfl

/-- Taking an event answers its effect. -/
theorem takeEvent_eq (e : HostEvent) (s : State) : takeEvent e s = .next (eventEffect e s) := by
  cases e with
  | idle => rfl
  | reset => rfl
  | command w =>
    simp only [eventEffect, takeEvent, acceptCommand]
    cases decode w s.mode with
    | refused r => rfl
    | accepted i => cases i <;> rfl

theorem feedText_withInput (u : Elem) (es : List HostEvent) (s : State) :
    feedText u (withInput es s) = withInput es (feedText u s) := by
  unfold feedText
  simp only [withInput_pend, trail, leadIn, setInvIf_withInput, latchLead_withInput, emit4_withInput,
    accAll_withInput, apply_ite (withInput es)]

theorem feedEffect_withInput (d : Elem) (es : List HostEvent) (s : State) :
    feedEffect d (withInput es s) = withInput es (feedEffect d s) := by
  simp only [feedEffect, withInput_mode, feedText_withInput, feedBytes, feedBstr, setInvIf_withInput, acc_withInput]
  cases s.mode <;> rfl

theorem finishEffect_withInput (es : List HostEvent) (s : State) :
    finishEffect (withInput es s) = withInput es (finishEffect s) := by
  have hf : flushIfPending (withInput es s) = withInput es (flushIfPending s) := by
    simp only [flushIfPending, withInput_pend, flush, setInvIf_withInput, emit4_withInput,
      apply_ite (withInput es)]
  have he : ∀ t, endPartialBlock (withInput es t) = withInput es (endPartialBlock t) := by
    intro t; rw [endPartialBlock_eq, endPartialBlock_eq]; rfl
  simp only [finishEffect, withInput_mode, finishMessage, hf, he]
  cases s.mode <;> rfl

theorem effect_withInput (i : Instr) (es : List HostEvent) (s : State) :
    effect i (withInput es s) = withInput es (effect i s) := by
  cases i with
  | feed d => exact feedEffect_withInput d es s
  | finish => exact finishEffect_withInput es s
  | _ => rfl

/-- The events yet to come change no event's effect. -/
theorem eventEffect_withInput (e : HostEvent) (es : List HostEvent) (s : State) :
    eventEffect e (withInput es s) = withInput es (eventEffect e s) := by
  cases e with
  | idle => rfl
  | reset => rfl
  | command w =>
    cases h : decode w s.mode with
    | refused r =>
      rw [eventEffect_refused h, eventEffect_refused (s := withInput es s) h]; rfl
    | accepted i =>
      rw [eventEffect_accepted h, eventEffect_accepted (s := withInput es s) h, effect_withInput]

@[simp] theorem eventEffect_input (e : HostEvent) (s : State) : (eventEffect e s).input = s.input := by
  have h : eventEffect e (withInput s.input s) = withInput s.input (eventEffect e s) :=
    eventEffect_withInput e s.input s
  rw [show withInput s.input s = s from rfl] at h
  rw [h]; rfl

/-- The effect of a list of events in order. -/
def eventsEffect (es : List HostEvent) (s : State) : State := es.foldl (fun t e => eventEffect e t) s

@[simp] theorem eventsEffect_nil (s : State) : eventsEffect [] s = s := rfl
@[simp] theorem eventsEffect_cons (e : HostEvent) (es : List HostEvent) (s : State) :
    eventsEffect (e :: es) s = eventsEffect es (eventEffect e s) := rfl
theorem eventsEffect_append (es fs : List HostEvent) (s : State) :
    eventsEffect (es ++ fs) s = eventsEffect fs (eventsEffect es s) := by
  simp [eventsEffect]
theorem eventsEffect_withInput (es fs : List HostEvent) (s : State) :
    eventsEffect es (withInput fs s) = withInput fs (eventsEffect es s) := by
  induction es generalizing s with
  | nil => rfl
  | cons e es ih => rw [eventsEffect_cons, eventEffect_withInput, ih, eventsEffect_cons]
@[simp] theorem eventsEffect_input (es : List HostEvent) (s : State) : (eventsEffect es s).input = s.input := by
  induction es generalizing s with
  | nil => rfl
  | cons e es ih => rw [eventsEffect_cons, ih, eventEffect_input]

/-- A step whose next event is known. -/
theorem step_of_input {s : State} {e : HostEvent} {rest : List HostEvent} (h : s.input = e :: rest) :
    step s = .next (withInput rest (eventEffect e s)) := by
  simp only [step, nextEvent, h, takeEvent_eq, eventEffect_withInput]

/-- As many steps as the list of events at the head of the host's list has. -/
theorem core_run_eq (es rest : List HostEvent) (s : State) (h : s.input = es ++ rest) :
    Host.Core.run Sys2Proof.core es.length s = .next (withInput rest (eventsEffect es s)) := by
  induction es generalizing s with
  | nil =>
    have h' : s.input = rest := h
    subst h'
    rfl
  | cons e es ih =>
    have hs : Sys2Proof.core.step s = .next (withInput (es ++ rest) (eventEffect e s)) := step_of_input h
    simp only [List.length_cons, Host.Core.run, hs]
    rw [ih _ rfl, eventsEffect_withInput]
    rfl

/-- A run over events is the fold of their effects. -/
theorem runEvents_eq (es : List HostEvent) (s : State) : runEvents es s = .next (eventsEffect es s) := by
  unfold runEvents
  rw [core_run_eq es s.input _ rfl,
    show ({ s with input := es ++ s.input } : State) = withInput (es ++ s.input) s from rfl,
    eventsEffect_withInput]
  have h : withInput s.input (eventsEffect es s) = eventsEffect es s := by
    rw [← eventsEffect_withInput]; rfl
  exact congrArg _ h

end Sys2Proof.Machine
end

