-- ==== Sys2Proof/Tests/Slice0.lean ====
section
/-! SUPPORT. Tests of the model against the words and vectors of the spec, and for each obligation with hypotheses a witness that meets
them. Expected results are those of spec/95_test_vectors.md, or are worked out from the rule a docstring names. -/

namespace Sys2Proof.Tests

open Sys2Proof Sys2Proof.Machine

/-- A small state: the sums, the block count, the mode and the pending lead; everything else as after reset. -/
def at_ (a b : Word) (cnt : Count) (mode : Mode) (pend : Bool) (lead : LeadBits) : State :=
  { State.reset with a := a, b := b, cnt := cnt, mode := mode, pend := pend, lead := lead }

/-- A message of the mode just opened (V-C2 to V-C4). -/
def opened (m : Mode) : State := at_ 1#32 0#32 0#12 m false 0#10

/-- A message of the mode with the lead 0xD83D pending (95 section 2.4, the state after the lead of V-T11). -/
def leadPending : State := at_ 1#32 0#32 0#12 .text true 0x03D#10

/-- The state after one command. -/
def after (i : Instr) (s : State) : State := stateAfter (exec i s) s

/-- `A`, `B` and `CNT` as numbers. -/
def sums (s : State) : Nat × Nat × Nat := (s.a.toNat, s.b.toNat, s.cnt.toNat)

/-! ### WellFormed: each check refuses an ill-formed term (R68, R59, 95 P3) -/

theorem test_wf_nop_imm : (AsmLine.nop 65536).wellFormed = false ∧ (AsmLine.nop 65535).wellFormed = true := by decide
theorem test_wf_start_idle : (AsmLine.start .idle).wellFormed = false ∧ (AsmLine.start .text).wellFormed = true := by decide
theorem test_wf_feed_imm : (AsmLine.feed 65536).wellFormed = false ∧ (AsmLine.feed 65535).wellFormed = true := by decide
theorem test_wf_feeds_imm : (AsmLine.feeds [1, 65536]).wellFormed = false ∧ (AsmLine.feeds []).wellFormed = true := by decide
theorem test_wf_checksum_imm : (AsmLine.checksum .bytes [65536]).wellFormed = false := by decide
theorem test_wf_checksum_idle : (AsmLine.checksum .idle []).wellFormed = false := by decide
theorem test_wf_rawWord_width :
    (AsmLine.rawWord 0x100000000).wellFormed = false ∧ (AsmLine.rawWord 0xFFFFFFFF).wellFormed = true := by decide

/-! ### Decoding: a word of each constructor, written bit by bit from R57, R58 and R67 -/

theorem test_decode_nop : decodeWord 0b00000000000000000001001000110100#32 = .accepted (.nop 0x1234#16) := by decide
theorem test_decode_startBytes : decodeWord 0b00010000000000000000000000000001#32 = .accepted .startBytes := by decide
theorem test_decode_startBstr : decodeWord 0b00010000000000000000000000000010#32 = .accepted .startBstr := by decide
theorem test_decode_startText : decodeWord 0b00010000000000000000000000000011#32 = .accepted .startText := by decide
theorem test_decode_feed : decodeWord 0b00100000000000001101100000111101#32 = .accepted (.feed 0xD83D#16) := by decide
theorem test_decode_finish : decodeWord 0b00110000000000000000000000000000#32 = .accepted .finish := by decide

/-- The encoder's words (R67, 95 section 2.5). -/
theorem test_encode :
    encode (.nop 0x1234#16) = 0x00001234#32 ∧ encode .startBytes = 0x10000001#32 ∧ encode .startBstr = 0x10000002#32 ∧
    encode .startText = 0x10000003#32 ∧ encode (.feed 0xD83D#16) = 0x2000D83D#32 ∧ encode .finish = 0x30000000#32 := by
  decide

/-- The refusals of V-C6 to V-C14, each by its name. -/
theorem test_decode_refusals :
    decode 0x40000000#32 .idle = .refused .reservedOp ∧ decode 0xF0000000#32 .idle = .refused .reservedOp ∧
    decode 0x00010000#32 .idle = .refused .reservedBits ∧ decode 0x10010001#32 .idle = .refused .reservedBits ∧
    decode 0x10000000#32 .idle = .refused .badStart ∧ decode 0x10000005#32 .idle = .refused .badStart ∧
    decode 0x20000041#32 .idle = .refused .noMessage ∧ decode 0x30000000#32 .idle = .refused .noMessage ∧
    decode 0x30000001#32 .bytes = .refused .badFinish := by
  decide

/-- The order of R66's lines where two of them apply: the first one names the refusal. -/
theorem test_decode_order :
    decode 0x4FFF0000#32 .idle = .refused .reservedOp ∧ decode 0x10010000#32 .idle = .refused .reservedBits ∧
    decode 0x30000001#32 .idle = .refused .badFinish := by
  decide

/-- The table's numbering: a row's bits are the command word's (R57, R65). -/
theorem test_tableWord :
    decodeTableWord 32 0x20000061 = some (.feed 0x61#16) ∧ decodeTableWord 32 0x40000000 = none ∧
    decodeTableWord 40 0x20000061 = none := by
  decide

/-! ### The shared operations -/

/-- V-R1 to V-R15: REDUCE of one accumulator. -/
theorem test_fold :
    [0#32, 1#32, 65520#32, 65521#32, 65535#32, 65536#32, 65537#32, 131071#32, 131072#32, 1047495#32, 2144034120#32,
      556245#32, 65745#32, 475751#32, 0xFFFFFFFF#32].map (fun x => (fold x).toNat)
    = [0, 1, 65520, 65521, 65535, 15, 16, 65550, 30, 64680, 514605, 32077, 224, 17104, 1048560] := by
  decide

/-- V-F1 to V-F6: FINAL. -/
theorem test_final :
    checksumOf 1#32 0#32 = 0x00000001#32 ∧ checksumOf 65521#32 65521#32 = 0x00000000#32 ∧
    checksumOf 65535#32 65535#32 = 0x000E000E#32 ∧ checksumOf 65745#32 556245#32 = 0x7D4D00E0#32 ∧
    checksumOf 3607#32 65521#32 = 0x00000E17#32 ∧ checksumOf 65520#32 65520#32 = 0xFFF0FFF0#32 := by
  decide

/-- The bytes of V-T1 to V-T10, by class. -/
theorem test_plainBytes :
    [0x0000#16, 0x007F#16, 0x0080#16, 0x00E9#16, 0x07FF#16, 0x0800#16, 0x20AC#16, 0xD7FF#16, 0xE000#16, 0xFFFF#16].map plainBytes
    = [[0x00#8], [0x7F#8], [0xC2#8, 0x80#8], [0xC3#8, 0xA9#8], [0xDF#8, 0xBF#8], [0xE0#8, 0xA0#8, 0x80#8],
       [0xE2#8, 0x82#8, 0xAC#8], [0xED#8, 0x9F#8, 0xBF#8], [0xEE#8, 0x80#8, 0x80#8], [0xEF#8, 0xBF#8, 0xBF#8]] := by
  decide

/-- The bytes of V-T11 to V-T17: a lead and its trail. -/
theorem test_pairBytes :
    [(0xD83D#16, 0xDE00#16), (0xD800#16, 0xDC00#16), (0xDBFF#16, 0xDFFF#16), (0xDC00#16, 0x0041#16), (0xD83D#16, 0x0041#16),
      (0xD83D#16, 0xD83D#16), (0xD83D#16, 0x0000#16)].map (fun p => fourBytes (pairCodePoint (leadBits p.1) p.2))
    = [[0xF0#8, 0x9F#8, 0x98#8, 0x80#8], [0xF0#8, 0x90#8, 0x80#8, 0x80#8], [0xF4#8, 0x8F#8, 0xBF#8, 0xBF#8],
       [0xF0#8, 0x90#8, 0x81#8, 0x81#8], [0xF0#8, 0x9F#8, 0x91#8, 0x81#8], [0xF0#8, 0x9F#8, 0x90#8, 0xBD#8],
       [0xF0#8, 0x9F#8, 0x90#8, 0x80#8]] := by
  decide

/-! ### One step of each command -/

/-- V-T19: a NOP leaves the latch alone. -/
theorem test_nop_keeps_lead : after (.nop 0x1234#16) leadPending = leadPending := by decide

/-- P4: START BYTES abandons a TEXT message with a lead pending. -/
theorem test_startBytes_abandons :
    let t := after .startBytes (at_ 66#32 66#32 1#12 .text true 0#10)
    sums t = (1, 0, 0) ∧ statusPort t = 0x10#8 ∧ t.inv = false := by
  decide

/-- V-C3. -/
theorem test_startBstr : statusPort (after .startBstr State.reset) = 0x20#8 := by decide

/-- V-C16: START clears DONE, keeps ILL and RESULT. -/
theorem test_startText_keeps :
    let t := after .startText { State.reset with done := true, ill := true, result := 0x00620062#32 }
    statusPort t = 0x32#8 ∧ resultPort t = 0x00620062#32 := by
  decide

/-- V-B5, V-B11 and the 3850th FEED of P5. -/
theorem test_feed_bytes :
    sums (after (.feed 0x01FF#16) (opened .bytes)) = (256, 256, 1) ∧ (after (.feed 0x01FF#16) (opened .bytes)).inv = true ∧
    sums (after (.feed 0x0141#16) (opened .bstr)) = (66, 66, 1) ∧ (after (.feed 0x0141#16) (opened .bstr)).inv = true ∧
    sums (after (.feed 0xFF#16) (at_ 981496#32 1889381724#32 3849#12 .bytes false 0#10)) = (64457, 475751, 0) := by
  decide

/-- P2's second and third FEED, the lead and the trail of V-T11. -/
theorem test_feed_text :
    sums (after (.feed 0x00E9#16) (at_ 98#32 98#32 1#12 .text false 0#10)) = (462, 853, 3) ∧
    sums (after (.feed 0x20AC#16) (at_ 462#32 853#32 3#12 .text false 0#10)) = (990, 3349, 6) ∧
    after (.feed 0xD83D#16) (opened .text) = leadPending ∧ statusPort leadPending = 0x38#8 ∧
    sums (after (.feed 0xDE00#16) leadPending) = (680, 1873, 4) ∧
    statusPort (after (.feed 0xDE00#16) leadPending) = 0x30#8 := by
  decide

/-- P5's FINISH. -/
theorem test_finish_reduces :
    let t := after .finish (at_ 64712#32 540463#32 1#12 .bytes false 0#10)
    sums t = (64712, 16295, 0) ∧ resultPort t = 0x3FA7FCC8#32 ∧ statusPort t = 0x01#8 := by
  decide

/-- V-T17: FINISH flushes a pending lead. -/
theorem test_finish_flushes :
    resultPort (after .finish leadPending) = 0x074102A0#32 ∧ statusPort (after .finish leadPending) = 0x05#8 := by
  decide

/-- A refused word (P3's `.word 0x10010001`): ILL, and nothing else. -/
theorem test_refused :
    stateAfter (acceptCommand 0x10010001#32 (opened .bytes)) (opened .bytes) = { opened .bytes with ill := true } := by
  decide

/-- `withFetchWord` places the word for the very next step: START BYTES as the first command after reset (V-C2). -/
theorem test_withFetchWord :
    statusPort (stateAfter (step (State.reset.withFetchWord 32 0x10000001)) State.reset) = 0x10#8 := by
  decide

/-! ### The assembler -/

/-- P3's text (some of its lines) and its words. -/
theorem test_parse_P3 :
    parseText "FEED 0x41 ; refused\nNOP\nSTART BYTES\n.word 0x10010001 ;\n\nFINISH".toList
      = some [.feed 0x41, .nop 0, .start .bytes, .rawWord 0x10010001, .finish] ∧
    assemble .idle [.feed 0x41, .nop 0, .start .bytes, .rawWord 0x10010001, .finish]
      = some [0x20000041#32, 0x00000000#32, 0x10000001#32, 0x10010001#32, 0x30000000#32] := by
  decide

/-- R69's pseudo-commands: CHECKSUM_BYTES as P1 writes it, and FEEDSTR with the modes it depends on. -/
theorem test_pseudo :
    parseLine "CHECKSUM_BYTES 0x57, 105".toList = some [.checksum .bytes [0x57, 105]] ∧
    assemble .idle [.checksum .bytes [0x57, 105]]
      = some [0x10000001#32, 0x20000057#32, 0x20000069#32, 0x30000000#32] ∧
    parseLine "FEEDSTR \"a;b\" ; c".toList = some [.feedStr ['a', ';', 'b']] ∧
    assemble .text [.feedStr [Char.ofNat 0x1F600]] = some [0x2000D83D#32, 0x2000DE00#32] ∧
    assemble .idle [.start .bytes, .feedStr ['W']] = some [0x10000001#32, 0x20000057#32] := by
  decide

/-- R68: an operand outside 0 to 65535 is an assembly error. -/
theorem test_assembly_error : assemble .idle [.feed 65536] = none ∧ parseLine "FEED 0x".toList = none := by decide

/-! ### The clocked shell -/

/-- CMD_LATENCY 2, synchronous reset, active high. -/
def params : Config.OpenParams := ⟨fun _ => 2, ⟨true, true⟩⟩

/-- The shell ready, after reset. -/
def readyShell : Shell := ⟨State.reset, none, 0⟩

/-- R56 and R158: busy for CMD_LATENCY edges after the acceptance, then ready with the whole effect. -/
theorem test_handshake :
    let acceptance : Stimulus := .edge ⟨false, true, 0x10000001#32⟩
    let quiet : Stimulus := .edge ⟨false, false, 0#32⟩
    cmdReady (shellRun params [acceptance] readyShell) = false ∧
    cmdReady (shellRun params [acceptance, quiet] readyShell) = false ∧
    sampledOutputs (shellRun params [acceptance, quiet, quiet] readyShell) = some (0x10#8, 0#32) := by
  decide

/-! ### Witnesses: for each obligation with hypotheses, states and operands that meet them all together -/

/-- The host presents the word next. -/
def given (w : Word) (s : State) : State := { s with input := [.command w] }

theorem witness_StepRunsDecodedCommand :
    (given 0x20000041#32 State.reset).input = .command 0x20000041#32 :: [] ∧
    decodeWord 0x20000041#32 = .accepted (.feed 0x41#16) ∧ decodeTableWord 32 0x20000041 = some (.feed 0x41#16) := by
  decide

theorem witness_StepWithoutCommand :
    State.reset.input = [] ∧ ({ State.reset with input := [.idle] } : State).input = .idle :: [] ∧
    ({ opened .text with input := [.reset] } : State).input = .reset :: [] := by
  decide

theorem witness_RefusedCommandSetsOnlyIll_refused :
    (given 0x20000041#32 State.reset).input = .command 0x20000041#32 :: [] ∧
    decode 0x20000041#32 (given 0x20000041#32 State.reset).mode = .refused .noMessage := by
  decide

theorem witness_RefusedCommandSetsOnlyIll_sticky :
    ∃ s t : State, s.ill = true ∧ (∀ rest, s.input ≠ .reset :: rest) ∧ step s = .next t :=
  ⟨given 0x10000001#32 { State.reset with ill := true }, _, rfl, (fun rest h => by cases h), rfl⟩

/-- The lowest and the highest word of a row with an operand, and the one word of a row without. -/
theorem witness_AcceptedWordsAreTheTableRows :
    decodeWord 0x2000FFFF#32 = .accepted (.feed 0xFFFF#16) ∧
    ([0x00000000#32, 0x0000FFFF#32].all (fun w => decide ((⟨0xFFFF0000#32, 0x00000000#32⟩ : EncodingRow).selects w = true)) = true) ∧
    ([0x20000000#32, 0x2000FFFF#32].all (fun w => decide ((⟨0xFFFF0000#32, 0x20000000#32⟩ : EncodingRow).selects w = true)) = true) ∧
    (⟨0xFFFFFFFF#32, 0x10000001#32⟩ : EncodingRow).selects 0x10000001#32 = true ∧
    (⟨0xFFFFFFFF#32, 0x10000001#32⟩ : EncodingRow) ∈ encodingRows := by
  decide

theorem witness_DecodeEncodeRoundTrip : decodeWord 0x0000FFFF#32 = .accepted (.nop 0xFFFF#16) := by decide

theorem witness_NopChangesNothing :
    opField 0x00010000#32 = 0#4 ∧ rsvField 0x00010000#32 ≠ 0#12 ∧ opField 0x0FFFFFFF#32 = 0#4 ∧ rsvField 0x0FFFFFFF#32 ≠ 0#12 := by
  decide

/-- Both sides of the equivalence: a word that is refused (for each of its three reasons) and one that is not. -/
theorem witness_StartOpensFreshMessage :
    ([0x10000000#32, 0x10000005#32, 0x10010001#32, 0x10000001#32].all (fun w => decide (opField w = 1#4)) = true) ∧
    decode 0x10000000#32 .idle = .refused .badStart ∧ decode 0x10000005#32 .idle = .refused .badStart ∧
    decode 0x10010001#32 .idle = .refused .reservedBits ∧ decode 0x10000001#32 .idle = .accepted .startBytes := by
  decide

theorem witness_NoMessageTurnsAway : State.reset.mode = .idle := rfl

/-- The last unit of a block, the unit before it, and the first one. -/
theorem witness_AccumulateUnit :
    (at_ 981496#32 1889381724#32 3849#12 .bytes false 0#10).cnt.toNat ≤ 3849 ∧
    (at_ 1#32 0#32 3848#12 .bytes false 0#10).cnt.toNat ≤ 3849 ∧ (opened .bytes).cnt.toNat ≤ 3849 := by
  decide

/-- Both modes, both sides of the equivalence. -/
theorem witness_FeedByteResult :
    (opened .bytes).mode = .bytes ∧ (opened .bstr).mode = .bstr ∧ Mode.text ≠ .idle ∧
    opField 0x20000041#32 = 2#4 ∧ decode 0x20000041#32 .idle = .refused .noMessage ∧
    decode 0x20000041#32 .bytes = .accepted (.feed 0x41#16) ∧
    opField 0x20010041#32 = 2#4 ∧ decode 0x20010041#32 .bytes = .refused .reservedBits := by
  decide

/-- Each class at both ends of its range (R111). -/
theorem witness_FeedTextPlainUnit :
    (opened .text).mode = .text ∧ (opened .text).pend = false ∧
    ([0x0000#16, 0x007F#16].all (fun u => decide (u.toNat < 0x80)) = true) ∧
    ([0x0080#16, 0x07FF#16].all (fun u => decide (0x80 ≤ u.toNat ∧ u.toNat < 0x800)) = true) ∧
    ([0x0800#16, 0xD7FF#16, 0xE000#16, 0xFFFF#16].all (fun u => decide (0x800 ≤ u.toNat ∧ (u.toNat < 0xD800 ∨ 0xE000 ≤ u.toNat))) = true) := by
  decide

theorem witness_FeedTextLeadIsLatched :
    (opened .text).mode = .text ∧ (opened .text).pend = false ∧
    ([0xD800#16, 0xDBFF#16, 0xDC00#16, 0xDFFF#16].all (fun u => decide (0xD800 ≤ u.toNat ∧ u.toNat < 0xE000)) = true) := by
  decide

theorem witness_FeedTextTrailCompletesPair : leadPending.mode = .text ∧ leadPending.pend = true := by decide

/-- With a partial block and without one. -/
theorem witness_FinishFormsResult :
    (∀ s ∈ [opened .bytes, at_ 64712#32 540463#32 1#12 .bstr false 0#10], s.mode ≠ .idle ∧ s.pend = false) := by
  decide

theorem witness_FinishFlushesPendingLead : leadPending.mode ≠ .idle ∧ leadPending.pend = true := by decide

theorem witness_FinishClosesEveryOpenMessage : ∀ s ∈ [opened .bytes, leadPending], s.mode ≠ .idle := by decide

/-- One state for each clause: turned away, outside TEXT, a trail, a plain unit, a lead. -/
theorem witness_FeedFrame :
    (∃ t, exec (.feed 0x61#16) State.reset = .next t) ∧ State.reset.mode = .idle ∧
    (∃ t, exec (.feed 0x61#16) (opened .bytes) = .next t) ∧ (opened .bytes).mode ≠ .idle ∧ (opened .bytes).mode ≠ .text ∧
    (∃ t, exec (.feed 0xDE00#16) leadPending = .next t) ∧ leadPending.mode = .text ∧ leadPending.pend = true ∧
    (∃ t, exec (.feed 0xD7FF#16) (opened .text) = .next t) ∧ (0xD7FF#16).toNat < 0xD800 ∧
    (∃ t, exec (.feed 0xE000#16) (opened .text) = .next t) ∧ 0xE000 ≤ (0xE000#16).toNat ∧
    (∃ t, exec (.feed 0xD800#16) (opened .text) = .next t) ∧ (opened .text).mode = .text ∧ (opened .text).pend = false ∧
    0xD800 ≤ (0xD800#16).toNat ∧ (0xD800#16).toNat < 0xE000 :=
  ⟨⟨_, rfl⟩, rfl, ⟨_, rfl⟩, by decide, by decide, ⟨_, rfl⟩, rfl, rfl, ⟨_, rfl⟩, by decide, ⟨_, rfl⟩, by decide, ⟨_, rfl⟩, rfl, rfl,
    by decide, by decide⟩

theorem witness_OtherCommandsFrame :
    (∃ t, exec (.nop 0x1234#16) leadPending = .next t) ∧ (∃ t, exec .startBytes leadPending = .next t) ∧
    (∃ t, exec .startBstr leadPending = .next t) ∧ (∃ t, exec .startText leadPending = .next t) ∧
    (∃ t, exec .finish (opened .bytes) = .next t) ∧ (opened .bytes).mode ≠ .idle ∧ (opened .bytes).pend = false ∧
    (∃ t, exec .finish State.reset = .next t) ∧ State.reset.mode = .idle :=
  ⟨⟨_, rfl⟩, ⟨_, rfl⟩, ⟨_, rfl⟩, ⟨_, rfl⟩, ⟨_, rfl⟩, by decide, rfl, ⟨_, rfl⟩, rfl⟩

/-- The step statements about one element (RESULT, DONE, ILL, MODE, PEND, INV): a step for each kind of event and of decoded
command that their clauses name. -/
theorem step_witnesses :
    (∃ t, step (State.reset) = .next t) ∧ (∃ t, step { leadPending with input := [.idle] } = .next t) ∧
    (∃ t, step { leadPending with input := [.reset] } = .next t) ∧
    (∃ t, step (given 0x10010001#32 (opened .bytes)) = .next t) ∧
    (∃ t, step (given 0x00000000#32 (opened .bytes)) = .next t) ∧
    (∃ t, step (given 0x10000001#32 leadPending) = .next t) ∧ (∃ t, step (given 0x10000002#32 leadPending) = .next t) ∧
    (∃ t, step (given 0x10000003#32 leadPending) = .next t) ∧
    (∃ t, step (given 0x20000100#32 (opened .bytes)) = .next t) ∧ (∃ t, step (given 0x2000D800#32 (opened .text)) = .next t) ∧
    (∃ t, step (given 0x2000DC00#32 leadPending) = .next t) ∧ (∃ t, step (given 0x30000000#32 leadPending) = .next t) :=
  ⟨⟨_, rfl⟩, ⟨_, rfl⟩, ⟨_, rfl⟩, ⟨_, rfl⟩, ⟨_, rfl⟩, ⟨_, rfl⟩, ⟨_, rfl⟩, ⟨_, rfl⟩, ⟨_, rfl⟩, ⟨_, rfl⟩, ⟨_, rfl⟩, ⟨_, rfl⟩⟩

theorem witness_StatusPortLayout :
    State.reset.input = [] ∧ (∃ t, step State.reset = .next t) ∧
    ∃ t, step { leadPending with input := [.idle] } = .next t :=
  ⟨rfl, ⟨_, rfl⟩, ⟨_, rfl⟩⟩

theorem witness_ResultChangesOnlyAtFinishOrReset :
    (∃ t, step (given 0x30000000#32 (opened .bytes)) = .next t) ∧ decode 0x30000000#32 (opened .bytes).mode = .accepted .finish :=
  ⟨⟨_, rfl⟩, by decide⟩
theorem witness_DoneFlagRule : ∃ t, step (given 0x10000001#32 leadPending) = .next t := ⟨_, rfl⟩
theorem witness_IllFlagRule : ∃ t, step (given 0x10010001#32 (opened .bytes)) = .next t := ⟨_, rfl⟩
theorem witness_ModeRegisterRule : ∃ t, step (given 0x10000002#32 leadPending) = .next t := ⟨_, rfl⟩
theorem witness_PendLatchRule : ∃ t, step (given 0x2000DFFF#32 (opened .text)) = .next t := ⟨_, rfl⟩
theorem witness_InvFlagRule : ∃ t, step (given 0x2000DFFF#32 leadPending) = .next t := ⟨_, rfl⟩

theorem leadPending_inv : Inv (given 0x2000DE00#32 leadPending) := ⟨by decide, fun _ => rfl, fun _ => rfl⟩

theorem witness_EveryStepKeepsInv :
    Inv (given 0x2000DE00#32 leadPending) ∧ ∃ t, step (given 0x2000DE00#32 leadPending) = .next t :=
  ⟨leadPending_inv, _, rfl⟩

/-- The bounds just before the end of a block, at P5's values. -/
theorem blockEnd_bounded : Bounded (given 0x200000FF#32 (at_ 981496#32 1889381724#32 3849#12 .bytes false 0#10)) :=
  ⟨by decide, by decide, by decide⟩

theorem witness_EveryStepKeepsBounded :
    Bounded (given 0x200000FF#32 (at_ 981496#32 1889381724#32 3849#12 .bytes false 0#10)) ∧
    ∃ t, step (given 0x200000FF#32 (at_ 981496#32 1889381724#32 3849#12 .bytes false 0#10)) = .next t :=
  ⟨blockEnd_bounded, _, rfl⟩

theorem witness_AccumulationNeverWraps :
    Bounded (given 0x200000FF#32 (at_ 981496#32 1889381724#32 3849#12 .bytes false 0#10)) := blockEnd_bounded

/-- A body with a FEED, a NOP and an idle edge in it. -/
def sampleBody : List HostEvent := [.command 0x2000D83D#32, .idle, .command 0x00001234#32, .command 0x2000DE00#32]

theorem witness_MessageResultIsAdler32 : Mode.text.opens = true ∧ ∀ e ∈ sampleBody, isBodyEvent e = true := by decide

theorem witness_OpenMessageSums : Mode.bytes.opens = true ∧ ∀ e ∈ sampleBody, isBodyEvent e = true := by decide

theorem witness_TextAgreesWithItsBytes : [0x0000#16, 0x0068#16, 0x007F#16].all (fun u => decide (u.toNat < 0x80)) = true := by decide

/-- Both sides of the equivalence, for a surrogate pair; a lone lead is on neither side. -/
theorem witness_WellFormedTextIsUtf8 :
    wellFormedUtf16 [0xD83D#16, 0xDE00#16] = true ∧ utf16 [Char.ofNat 0x1F600] = [0xD83D#16, 0xDE00#16] ∧
    wellFormedUtf16 [0xD83D#16] = false := by
  decide

theorem witness_TextFeedUnitCounts : leadPending.mode = .text ∧ (opened .text).mode = .text := by decide

theorem witness_ResultDependsOnlyOnMessage :
    Mode.text.opens = true ∧ (∀ e ∈ sampleBody, isBodyEvent e = true) ∧
    (∀ e ∈ feedEvents [0xD83D#16, 0xDE00#16], isBodyEvent e = true) ∧
    fedData sampleBody = fedData (feedEvents [0xD83D#16, 0xDE00#16]) := by
  decide

/-- Two different states: between messages with other sums, and in a TEXT message with another dead LEAD. -/
theorem witness_DeadStateIsUnobservable :
    SameLive (at_ 98#32 98#32 0#12 .idle false 0#10) (at_ 1#32 0#32 7#12 .idle false 5#10) ∧
    SameLive (at_ 98#32 98#32 1#12 .text false 0#10) (at_ 98#32 98#32 1#12 .text false 5#10) :=
  ⟨⟨rfl, rfl, rfl, rfl, rfl, rfl, rfl, (fun h => by cases h), fun h => absurd rfl h⟩,
   ⟨rfl, rfl, rfl, rfl, rfl, rfl, rfl, (fun h => by cases h), fun _ => ⟨rfl, rfl, rfl⟩⟩⟩

theorem witness_FlagsNeverChangeTheResult : ∃ t, step (given 0x200000FF#32 (opened .bytes)) = .next t := ⟨_, rfl⟩

theorem witness_HandshakeAcceptsOnValidAndReady :
    resetAsserted params.resetStyle false = false ∧ (⟨false, false, 0#32⟩ : Pins).cmdValid = false ∧
    cmdReady readyShell = true := by
  decide

/-- Both clauses: all CMD_LATENCY later edges, and fewer. -/
theorem witness_BlockBecomesReadyAgain :
    cmdReady readyShell = true ∧ (⟨false, true, 0x10000001#32⟩ : Pins).cmdValid = true ∧
    resetAsserted params.resetStyle false = false ∧
    (∀ q ∈ [(⟨false, true, 5#32⟩ : Pins), ⟨false, false, 0#32⟩], resetAsserted params.resetStyle q.rst = false) ∧
    [(⟨false, true, 5#32⟩ : Pins), ⟨false, false, 0#32⟩].length = params.cmdLatency readyShell.accepted ∧
    ([] : List Pins).length ≤ params.cmdLatency readyShell.accepted := by
  decide

/-- Both styles: at an edge, active high; between edges, asynchronous and active low. -/
theorem witness_ResetLosesCommandInProgress :
    resetAsserted params.resetStyle true = true ∧
    (⟨false, false⟩ : Config.ResetStyle).synchronous = false ∧ resetAsserted ⟨false, false⟩ false = true := by
  decide

/-- The operands at both ends of their range, a string that is ASCII up to 127 and one that is not, and a program that
assembles. -/
theorem witness_PseudoCommandsExpand :
    Mode.text.opens = true ∧ [0, 65535].all (fun v => decide (v ≤ 65535)) = true ∧
    [Char.ofNat 0, Char.ofNat 127].all (fun c => decide (c.toNat < 128)) = true ∧ ¬ (Char.ofNat 128).toNat < 128 ∧
    assemble .idle [.checksum .text [0xD83D]] = some [0x10000003#32, 0x2000D83D#32, 0x30000000#32] := by
  decide

/-- R69 for FEEDS with no element and for FEEDSTR in the modes that give it a meaning and without one. -/
theorem test_feedStr :
    assemble .bytes [.feeds [], .finish] = some [0x30000000#32] ∧
    assemble .bstr [.feedStr ['W', 'i']] = some [0x20000057#32, 0x20000069#32] ∧
    assemble .bytes [.feedStr [Char.ofNat 0xE9]] = none ∧ assemble .idle [.feedStr ['W']] = none := by
  decide

end Sys2Proof.Tests
end

section
/-! SUPPORT. What FEED does to each element it may write, through one function that lists the units it accumulates
(spec/41_byte_feed.md R101, R102, spec/42_text_feed.md R110 to R117), and the classes of an element as ranges of numbers. -/

namespace Sys2Proof.Machine

/-! The classes of an element, as ranges of numbers. -/

theorem isSurrogate_eq_decide (u : Elem) : isSurrogate u = decide (0xD800 ≤ u.toNat ∧ u.toNat < 0xE000) := by
  simp [isSurrogate, BitVec.le_def, BitVec.lt_def]

theorem isLowSurrogate_eq_decide (u : Elem) :
    isLowSurrogate u = decide (0xDC00 ≤ u.toNat ∧ u.toNat < 0xE000) := by
  simp [isLowSurrogate, BitVec.le_def, BitVec.lt_def]

theorem outsideByteRange_eq_decide (d : Elem) : outsideByteRange d = decide (256 ≤ d.toNat) := by
  have hhigh : d.extractLsb' 8 8 = 0#8 ↔ ¬ 256 ≤ d.toNat := by
    have := d.isLt
    rw [← BitVec.toNat_inj, BitVec.extractLsb'_toNat, Nat.shiftRight_eq_div_pow]
    simp only [BitVec.toNat_ofNat]
    omega
  by_cases h : 256 ≤ d.toNat <;> simp [outsideByteRange, hhigh, h]

theorem isLowSurrogate_of_not_isSurrogate {u : Elem} (h : isSurrogate u = false) : isLowSurrogate u = false := by
  rw [isSurrogate_eq_decide, decide_eq_false_iff_not] at h
  rw [isLowSurrogate_eq_decide, decide_eq_false_iff_not]
  omega

/-! FEED in TEXT mode. -/

@[simp] theorem trail_pend (t : Elem) (s : State) : (trail t s).pend = false := rfl
@[simp] theorem trail_lead (t : Elem) (s : State) : (trail t s).lead = s.lead := by simp [trail]
@[simp] theorem trail_inv (t : Elem) (s : State) : (trail t s).inv = (s.inv || !isLowSurrogate t) := by
  simp [trail, invTrail]
@[simp] theorem leadIn_pend (u : Elem) (s : State) : (leadIn u s).pend = true := rfl
@[simp] theorem leadIn_lead (u : Elem) (s : State) : (leadIn u s).lead = leadBits u := rfl
@[simp] theorem leadIn_inv (u : Elem) (s : State) : (leadIn u s).inv = (s.inv || isLowSurrogate u) := rfl

@[simp] theorem feedText_pend (u : Elem) (s : State) : (feedText u s).pend = (!s.pend && isSurrogate u) := by
  rcases feedText_cases u s with ⟨hp, h⟩ | ⟨hp, hu, h⟩ | ⟨hp, hu, h⟩
  · simp [h, hp]
  · simp [h, hp, hu]
  · simp [h, hp, hu]

@[simp] theorem feedText_lead (u : Elem) (s : State) :
    (feedText u s).lead = if s.pend = false ∧ isSurrogate u = true then leadBits u else s.lead := by
  rcases feedText_cases u s with ⟨hp, h⟩ | ⟨hp, hu, h⟩ | ⟨hp, hu, h⟩
  · simp [h, hp]
  · simp [h, hp, hu]
  · simp [h, hp, hu]

@[simp] theorem feedText_inv (u : Elem) (s : State) :
    (feedText u s).inv = (s.inv || if s.pend then !isLowSurrogate u else isLowSurrogate u) := by
  rcases feedText_cases u s with ⟨hp, h⟩ | ⟨hp, hu, h⟩ | ⟨hp, hu, h⟩
  · simp [h, hp]
  · simp [h, hp]
  · simp [h, hp, isLowSurrogate_of_not_isSurrogate hu]

/-! FEED in each mode. -/

/-- The units that a FEED accumulates (R101, R102, R110). -/
def feedUnits (d : Elem) (s : State) : List Byte :=
  match s.mode with
  | .idle => []
  | .bytes => [byteOperand d]
  | .bstr => [byteOperand d]
  | .text =>
    if s.pend then fourBytes (pairCodePoint s.lead d) else if isSurrogate d then [] else plainBytes d

/-- Everything FEED does to the sums. -/
@[simp] theorem sumsOf_feedEffect (d : Elem) (s : State) :
    sumsOf (feedEffect d s) = accAllSums (feedUnits d s) (sumsOf s) := by
  cases hm : s.mode with
  | idle => simp [feedUnits, feedEffect_idle d s hm, hm, refuse, setIll, sumsOf]
  | bytes => simp [feedUnits, feedEffect_bytes d s hm, hm, feedBytes]
  | bstr => simp [feedUnits, feedEffect_bstr d s hm, hm, feedBstr]
  | text =>
    rw [feedEffect_text d s hm]
    rcases feedText_cases d s with ⟨hp, h⟩ | ⟨hp, hu, h⟩ | ⟨hp, hu, h⟩
    · simp [feedUnits, h, hm, hp]
    · simp [feedUnits, h, hm, hp, hu]
    · simp [feedUnits, h, hm, hp, hu]

theorem feedEffect_pend (d : Elem) (s : State) :
    (feedEffect d s).pend = if s.mode = .text then !s.pend && isSurrogate d else s.pend := by
  cases hm : s.mode <;> simp [feedEffect, feedBytes, feedBstr, hm]

theorem feedEffect_lead (d : Elem) (s : State) :
    (feedEffect d s).lead
      = if s.mode = .text ∧ s.pend = false ∧ isSurrogate d = true then leadBits d else s.lead := by
  cases hm : s.mode <;> simp [feedEffect, feedBytes, feedBstr, hm]

/-- With a message open, FEED sets INV for a violation of the mode's contract (R134). -/
theorem feedEffect_inv (d : Elem) (s : State) (h : s.mode ≠ .idle) :
    (feedEffect d s).inv
      = (s.inv ||
          if s.mode = .text then (if s.pend then !isLowSurrogate d else isLowSurrogate d)
          else outsideByteRange d) := by
  cases hm : s.mode <;> simp_all [feedEffect, feedBytes, feedBstr]

/-! The arms of `effect`, and the FINISH that decoding accepts. -/

@[simp] theorem effect_nop (n : Elem) (s : State) : effect (.nop n) s = s := rfl
@[simp] theorem effect_startBytes (s : State) : effect .startBytes s = startMessage .bytes s := rfl
@[simp] theorem effect_startBstr (s : State) : effect .startBstr s = startMessage .bstr s := rfl
@[simp] theorem effect_startText (s : State) : effect .startText s = startMessage .text s := rfl
@[simp] theorem effect_feed (d : Elem) (s : State) : effect (.feed d) s = feedEffect d s := rfl

theorem effect_finish_open (s : State) (h : s.mode ≠ .idle) : effect .finish s = finishMessage s :=
  finishEffect_open s h

end Sys2Proof.Machine
end

section
/-! SUPPORT. The engine's arithmetic as numbers: the fold and its residue, the word that FINAL forms, and the two cases of
`ACC` with CNT in its range (spec/40_core_engine.md R80 to R86, spec/10_state.md R23). -/

namespace Sys2Proof.Machine

theorem fold_toNat (x : Word) : (fold x).toNat = 15 * (x.toNat / 65536) + x.toNat % 65536 := by
  have hx := x.isLt
  have hlow : (x &&& 0xFFFF#32).toNat = x.toNat % 65536 := by
    rw [BitVec.toNat_and]
    exact Nat.and_two_pow_sub_one_eq_mod x.toNat 16
  simp only [fold, Config.foldFactor, BitVec.toNat_add, BitVec.toNat_mul, BitVec.toNat_ushiftRight, hlow,
    BitVec.toNat_ofNat, Nat.shiftRight_eq_div_pow]
  omega

/-- R83: `REDUCE` keeps each accumulator's residue, since 65536 is 15 mod 65521. -/
theorem fold_mod (x : Word) : (fold x).toNat % 65521 = x.toNat % 65521 := by
  rw [fold_toNat]
  omega

/-- The word of `FINAL` as a number (R86). -/
theorem checksumOf_toNat (a b : Word) :
    (checksumOf a b).toNat = b.toNat % 65521 * 65536 + a.toNat % 65521 := by
  have hb : b.toNat % 65521 < 65521 := Nat.mod_lt _ (by decide)
  have ha : a.toNat % 65521 < 2 ^ 16 := by omega
  simp only [checksumOf, Config.modulus, BitVec.toNat_or, BitVec.toNat_shiftLeft, BitVec.toNat_umod,
    BitVec.toNat_ofNat, Nat.shiftLeft_eq, show 65521 % 2 ^ 32 = 65521 from rfl]
  rw [Nat.mod_eq_of_lt (by omega), mul_comm, ← Nat.two_pow_add_eq_or_of_lt ha, mul_comm]

/-! The block counter. -/

/-- The two cases of `ACC` with CNT in its range (R23, R80): the unit ends the block, or it does not. -/
theorem accSums_cases (v : Byte) {x : Sums} (h : x.cnt.toNat ≤ 3849) :
    (x.cnt.toNat = 3849 ∧
      accSums v x = ⟨fold (x.a + v.setWidth 32), fold (x.b + (x.a + v.setWidth 32)), 0#12⟩) ∨
    (x.cnt.toNat < 3849 ∧ (x.cnt + 1#12).toNat = x.cnt.toNat + 1 ∧
      accSums v x = ⟨x.a + v.setWidth 32, x.b + (x.a + v.setWidth 32), x.cnt + 1#12⟩) := by
  have hcnt : (x.cnt + 1#12).toNat = x.cnt.toNat + 1 := by
    simp only [BitVec.toNat_add, BitVec.toNat_ofNat]
    omega
  have hfull : x.cnt + 1#12 = Config.blockLength ↔ x.cnt.toNat = 3849 := by
    rw [← BitVec.toNat_inj, hcnt]
    simp [Config.blockLength]
  by_cases he : x.cnt.toNat = 3849
  · exact .inl ⟨he, if_pos (hfull.2 he)⟩
  · exact .inr ⟨by omega, hcnt, if_neg (fun hc => he (hfull.1 hc))⟩

theorem accSums_cnt_le {v : Byte} {x : Sums} (h : x.cnt.toNat ≤ 3849) : (accSums v x).cnt.toNat ≤ 3849 := by
  rcases accSums_cases v h with ⟨_, heq⟩ | ⟨hlt, hcnt, heq⟩
  · simp [heq]
  · simp only [heq, hcnt]
    omega

theorem accAllSums_cnt_le (vs : List Byte) {x : Sums} (h : x.cnt.toNat ≤ 3849) :
    (accAllSums vs x).cnt.toNat ≤ 3849 := by
  induction vs generalizing x with
  | nil => exact h
  | cons v vs ih => exact ih (accSums_cnt_le h)

end Sys2Proof.Machine
end

section
/-! O32 and O2: the invariants of R36 and R85 (spec/10_state.md section 7). -/

namespace Sys2Proof.Machine

theorem Inv.reset : Inv State.reset := ⟨by decide, nofun, nofun⟩

/-- The host's events are no part of the invariant. -/
theorem Inv.withInput {s : State} (h : Inv s) (es : List HostEvent) : Inv (withInput es s) :=
  ⟨h.cntInBlock, h.pendOnlyInText, h.openNotDone⟩

theorem Inv.setIll {s : State} (h : Inv s) : Inv (setIll s) :=
  ⟨h.cntInBlock, h.pendOnlyInText, h.openNotDone⟩

theorem inv_startMessage (m : Mode) (s : State) : Inv (startMessage m s) :=
  ⟨by simp, nofun, fun _ => rfl⟩

theorem inv_finishMessage (s : State) : Inv (finishMessage s) := ⟨by simp, by simp, by simp⟩

theorem feedEffect_cnt_le {s : State} (d : Elem) (h : s.cnt.toNat ≤ 3849) : (feedEffect d s).cnt.toNat ≤ 3849 := by
  rw [← sumsOf_cnt, sumsOf_feedEffect]
  exact accAllSums_cnt_le _ h

theorem Inv.feedEffect {s : State} (h : Inv s) (d : Elem) : Inv (feedEffect d s) where
  cntInBlock := feedEffect_cnt_le d h.cntInBlock
  pendOnlyInText hp := by
    rw [feedEffect_mode]
    rw [feedEffect_pend] at hp
    split at hp
    · assumption
    · exact h.pendOnlyInText hp
  openNotDone hm := by
    rw [feedEffect_mode] at hm
    rw [feedEffect_done]
    exact h.openNotDone hm

theorem Inv.finishEffect {s : State} (h : Inv s) : Inv (finishEffect s) := by
  by_cases hm : s.mode = .idle
  · rw [finishEffect_idle s hm]
    exact h.setIll
  · rw [finishEffect_open s hm]
    exact inv_finishMessage s

/-- Every command keeps R36's invariant. -/
theorem Inv.effect {s : State} (h : Inv s) (i : Instr) : Inv (effect i s) := by
  cases i with
  | nop n => exact h
  | startBytes => exact inv_startMessage .bytes s
  | startBstr => exact inv_startMessage .bstr s
  | startText => exact inv_startMessage .text s
  | feed d => exact h.feedEffect d
  | finish => exact h.finishEffect

/-- Settles O32: the invariant of R36 is kept by each of the five things a step can do. -/
theorem everyStepKeepsInv : Obligations.EveryStepKeepsInv := by
  intro s t hs h
  rcases step_cases h with ⟨_, rfl⟩ | ⟨rest, _, rfl⟩ | ⟨rest, _, rfl⟩ | ⟨_, rest, _, _, _, rfl⟩ |
    ⟨_, rest, i, _, _, rfl⟩
  · exact hs
  · exact hs.withInput rest
  · exact Inv.reset.withInput rest
  · exact hs.setIll.withInput rest
  · exact (hs.withInput rest).effect i

/-- Settles O2: the base case of O32 and of R85's bounds. -/
theorem invariantsHoldAtReset : Obligations.InvariantsHoldAtReset := by
  have hbounded : Bounded State.reset := by simp [Bounded, AccBounds, State.reset]
  exact ⟨Inv.reset, hbounded⟩

end Sys2Proof.Machine
end

section
/-! O26 to O31: what each event does to RESULT, DONE, ILL, MODE, PEND and INV (spec/10_state.md R24 to R30), by the five cases
of a step. -/

namespace Sys2Proof.Machine

/-- The two halves of the word that FINISH writes (R86, R27). -/
theorem checksumOf_halves (a b : Word) :
    ((checksumOf a b).extractLsb' 16 16).toNat = b.toNat % 65521 ∧
    ((checksumOf a b).extractLsb' 0 16).toNat = a.toNat % 65521 := by
  simp only [BitVec.extractLsb'_toNat, checksumOf_toNat, Nat.shiftRight_eq_div_pow]
  omega

/-- The case split of a step as one rule, for a statement `P` about the host's events and the state after the step. -/
theorem step_elim {P : List HostEvent → State → Prop} {s t : State} {es : List HostEvent}
    (h : step s = .next t) (hin : s.input = es) (nil : P [] s)
    (idle : ∀ rest, P (.idle :: rest) (withInput rest s))
    (reset : ∀ rest, P (.reset :: rest) (withInput rest State.reset))
    (refused : ∀ w rest r, decode w s.mode = .refused r → P (.command w :: rest) (withInput rest (setIll s)))
    (accepted : ∀ w rest i, decode w s.mode = .accepted i →
      P (.command w :: rest) (withInput rest (effect i s))) : P es t := by
  subst hin
  rcases step_cases h with ⟨hin, rfl⟩ | ⟨rest, hin, rfl⟩ | ⟨rest, hin, rfl⟩ | ⟨w, rest, r, hin, hd, rfl⟩ |
    ⟨w, rest, i, hin, hd, rfl⟩
  · rwa [hin]
  · rw [hin]; exact idle rest
  · rw [hin]; exact reset rest
  · rw [hin]; exact refused w rest r hd
  · rw [hin, effect_withInput]; exact accepted w rest i hd

/-- An accepted FINISH has the effect of FINISH with a message open. -/
theorem effect_finish_of_accepted {w : Word} {s : State} (hd : decode w s.mode = .accepted .finish) :
    effect .finish s = finishMessage s :=
  effect_finish_open s (decode_accepted_open hd rfl)

/-- Settles O26: of the effects of commands, FINISH's alone writes RESULT. -/
theorem resultChangesOnlyAtFinishOrReset : Obligations.ResultChangesOnlyAtFinishOrReset := by
  refine ⟨fun _ => rfl, fun s t h => ?_⟩
  generalize hin : s.input = es
  apply step_elim h hin
  case nil | idle | reset => intros; rfl
  case refused => intro w rest r hd; simp [hd]
  case accepted =>
    intro w rest i hd
    cases i with
    | finish =>
      simp only [hd, effect_finish_of_accepted hd, if_true, withInput_result, withInput_a, withInput_b,
        finishMessage_result]
      exact checksumOf_halves _ _
    | _ => simp [hd]

/-- Settles O27: of the accepted commands, FINISH and the STARTs alone write DONE. -/
theorem doneFlagRule : Obligations.DoneFlagRule := by
  intro s t h
  generalize hin : s.input = es
  apply step_elim h hin
  case nil | idle | reset => intros; rfl
  case refused => intro w rest r hd; simp [hd]
  case accepted =>
    intro w rest i hd
    cases i with
    | finish => simp [hd, effect_finish_of_accepted hd]
    | _ => simp [hd]

/-- Settles O28: an accepted command keeps ILL, since an accepted FEED or FINISH finds a message open. -/
theorem illFlagRule : Obligations.IllFlagRule := by
  intro s t h
  generalize hin : s.input = es
  apply step_elim h hin
  case nil | idle | reset => intros; rfl
  case refused => intro w rest r hd; simp [hd]
  case accepted =>
    intro w rest i hd
    cases i with
    | feed d => simp [hd, feedEffect_ill d s (decode_accepted_open hd rfl)]
    | finish => simp [hd, effect_finish_of_accepted hd]
    | _ => simp [hd]

/-- Settles O29: of the accepted commands, FINISH and the STARTs alone write MODE. -/
theorem modeRegisterRule : Obligations.ModeRegisterRule := by
  intro s t h
  generalize hin : s.input = es
  apply step_elim h hin
  case nil | idle | reset => intros; rfl
  case refused => intro w rest r hd; simp [hd]
  case accepted =>
    intro w rest i hd
    cases i with
    | finish => simp [hd, effect_finish_of_accepted hd]
    | _ => simp [hd]

/-- Settles O30: a FEED is the one command that can set PEND, by `feedEffect_pend`. -/
theorem pendLatchRule : Obligations.PendLatchRule := by
  intro s t h
  generalize hin : s.input = es
  apply step_elim h hin
  case nil | idle | reset => intros; rfl
  case refused => intro w rest r hd; simp [hd]
  case accepted =>
    intro w rest i hd
    cases i with
    | feed u => simp [hd, feedEffect_pend, isSurrogate_eq_decide]
    | finish => simp [hd, effect_finish_of_accepted hd]
    | _ => simp [hd]

/-- Settles O31: FEED sets INV by `feedEffect_inv`, FINISH for a pending lead. -/
theorem invFlagRule : Obligations.InvFlagRule := by
  intro s t h
  generalize hin : s.input = es
  apply step_elim h hin
  case nil | idle | reset => intros; rfl
  case refused => intro w rest r hd; simp [hd]
  case accepted =>
    intro w rest i hd
    cases i with
    | feed d =>
      simp [hd, feedEffect_inv d s (decode_accepted_open hd rfl), isLowSurrogate_eq_decide,
        outsideByteRange_eq_decide]
    | finish => simp [hd, effect_finish_of_accepted hd]
    | _ => simp [hd]

/-- A step with nothing presented changes nothing (R56, R160). -/
theorem step_of_no_input {s : State} (h : s.input = []) : step s = .next s := by
  simp only [step, nextEvent, h]

/-- A step with no command and no reset changes nothing but the host's events (R56). -/
theorem step_without_command {s t : State} (hin : s.input = [] ∨ ∃ rest, s.input = .idle :: rest)
    (h : step s = .next t) : ∃ rest, t = withInput rest s := by
  rcases hin with hin | ⟨rest, hin⟩
  · rw [step_of_no_input hin] at h
    exact ⟨s.input, (Host.Outcome.next.inj h).symm⟩
  · rw [step_of_input hin, eventEffect_idle] at h
    exact ⟨rest, (Host.Outcome.next.inj h).symm⟩

/-- STATUS as a number, flag by flag (R31). -/
theorem statusPort_toNat (s : State) :
    (statusPort s).toNat
      = (if s.done then 1 else 0) + (if s.ill then 2 else 0) + (if s.inv then 4 else 0) + (if s.pend then 8 else 0)
        + 16 * s.mode.code.toNat := by
  unfold statusPort
  generalize s.mode.code = m, s.pend = p, s.inv = v, s.ill = l, s.done = d
  revert m p v l d
  decide

/-- Settles O25: the ports read no host event, and the bits of STATUS do not overlap. -/
theorem statusPortLayout : Obligations.StatusPortLayout := by
  refine ⟨fun s t hin h => ?_, fun s => ?_⟩
  · obtain ⟨rest, rfl⟩ := step_without_command hin h
    exact ⟨rfl, rfl⟩
  · rw [statusPort_toNat]
    cases s.mode <;> rfl

end Sys2Proof.Machine
end

section
/-! O23 and O24: what each command leaves unchanged (spec/10_state.md section 7, R37). -/

namespace Sys2Proof.Machine

/-- Equal sums are equal fields. -/
theorem sumsOf_eq_iff {s t : State} : sumsOf t = sumsOf s ↔ t.a = s.a ∧ t.b = s.b ∧ t.cnt = s.cnt := by
  simp [sumsOf]

/-- A FEED that latches a lead accumulates nothing (R115). -/
theorem feedUnits_of_lead {d : Elem} {s : State} (hm : s.mode = .text) (hp : s.pend = false)
    (hd : isSurrogate d = true) : feedUnits d s = [] := by
  simp [feedUnits, hm, hp, hd]

/-- Settles O23: clause by clause from what FEED does to each element. -/
theorem feedFrame : Obligations.FeedFrame := by
  intro d s t h
  obtain rfl := exec_inv h
  simp only [effect_feed]
  refine ⟨feedEffect_mode d s, feedEffect_result d s, feedEffect_done d s, feedEffect_input d s,
    feedEffect_ill d s, fun hm => ?_, fun hm => ?_, fun hm hlead => ?_, fun hm hp hlo hhi => ?_⟩
  · simp [feedEffect_pend, feedEffect_lead, hm]
  · simp [feedEffect_idle d s hm]
  · have hnolatch : ¬ (s.mode = .text ∧ s.pend = false ∧ isSurrogate d = true) := by
      rw [isSurrogate_eq_decide, decide_eq_true_eq]
      rintro ⟨-, hp, hd⟩
      rcases hlead with hpend | hlow | hhigh
      · simp [hp] at hpend
      · omega
      · omega
    rw [feedEffect_lead, if_neg hnolatch]
  · have hd : isSurrogate d = true := by simp [isSurrogate_eq_decide, hlo, hhi]
    rw [← sumsOf_eq_iff, sumsOf_feedEffect, feedUnits_of_lead hm hp hd, accAllSums_nil]

/-- Settles O24: each command's effect, field by field. -/
theorem otherCommandsFrame : Obligations.OtherCommandsFrame := by
  refine ⟨fun n s t h => exec_inv h, fun i s t hi h => ?_, fun s t hm h => ?_, fun s t hm h => ?_⟩
  · obtain rfl := exec_inv h
    rcases hi with rfl | rfl | rfl <;> exact ⟨rfl, rfl, rfl⟩
  · obtain rfl := exec_inv h
    rw [effect_finish_open s hm]
    refine ⟨finishMessage_lead s, finishMessage_ill s, finishMessage_input s, fun hp => ?_⟩
    rw [finishMessage_inv, hp, Bool.or_false]
  · obtain rfl := exec_inv h
    exact finishEffect_idle s hm

end Sys2Proof.Machine
end

section
/-! O44 and O1: what no later command can show (spec/10_state.md R26, R35). `SameLive` is kept by every event and shows the
same ports. -/

namespace Sys2Proof.Machine

theorem SameLive.statusPort_eq {s t : State} (h : SameLive s t) : statusPort s = statusPort t := by
  simp only [statusPort, h.mode, h.pend, h.inv, h.ill, h.done]

theorem SameLive.sumsOf_eq {s t : State} (h : SameLive s t) (hm : s.mode ≠ .idle) : sumsOf t = sumsOf s := by
  obtain ⟨ha, hb, hc⟩ := h.sums hm
  exact sumsOf_eq_iff.2 ⟨ha.symm, hb.symm, hc.symm⟩

/-- With a message open and a lead pending nothing is dead. -/
theorem SameLive.eq_of_pend {s t : State} (h : SameLive s t) (hm : s.mode ≠ .idle) (hp : s.pend = true) :
    t = s := by
  obtain ⟨hmode, hpend, hresult, hdone, hill, hinv, hinput, hlead, hsums⟩ := h
  obtain ⟨ha, hb, hc⟩ := hsums hm
  cases s
  cases t
  simp_all

theorem SameLive.refl (s : State) : SameLive s s :=
  ⟨rfl, rfl, rfl, rfl, rfl, rfl, rfl, fun _ => rfl, fun _ => ⟨rfl, rfl, rfl⟩⟩

theorem SameLive.withInput {s t : State} (h : SameLive s t) (es : List HostEvent) :
    SameLive (withInput es s) (withInput es t) :=
  { h with input := rfl }

theorem SameLive.setIll {s t : State} (h : SameLive s t) : SameLive (setIll s) (setIll t) :=
  { h with ill := rfl }

theorem SameLive.resetBlock {s t : State} (h : SameLive s t) : SameLive (resetBlock s) (resetBlock t) :=
  ⟨rfl, rfl, rfl, rfl, rfl, rfl, h.input, fun _ => rfl, fun _ => ⟨rfl, rfl, rfl⟩⟩

theorem SameLive.startMessage {s t : State} (h : SameLive s t) (m : Mode) :
    SameLive (startMessage m s) (startMessage m t) :=
  ⟨rfl, rfl, h.result, rfl, h.ill, rfl, h.input, fun _ => rfl, fun _ => ⟨rfl, rfl, rfl⟩⟩

/-- FEED reads LEAD for a pending lead alone. -/
theorem SameLive.feedUnits_eq {s t : State} (h : SameLive s t) (d : Elem) : feedUnits d t = feedUnits d s := by
  have hlead := h.lead
  cases hp : s.pend <;> simp_all [feedUnits, ← h.mode, ← h.pend]

theorem SameLive.feedEffect {s t : State} (h : SameLive s t) (hm : s.mode ≠ .idle) (d : Elem) :
    SameLive (feedEffect d s) (feedEffect d t) where
  mode := by simp [h.mode]
  pend := by simp [feedEffect_pend, h.mode, h.pend]
  result := by simp [h.result]
  done := by simp [h.done]
  ill := by rw [feedEffect_ill d s hm, feedEffect_ill d t (h.mode ▸ hm), h.ill]
  inv := by rw [feedEffect_inv d s hm, feedEffect_inv d t (h.mode ▸ hm), h.mode, h.pend, h.inv]
  input := by simp [h.input]
  lead hp := by
    rw [feedEffect_lead, feedEffect_lead, ← h.mode, ← h.pend]
    split
    · rfl
    · rename_i hnolatch
      rw [feedEffect_pend] at hp
      apply h.lead
      split at hp <;> simp_all
  sums _ := by
    rw [← sumsOf_eq_iff]
    simp [h.feedUnits_eq, h.sumsOf_eq hm]

/-- RESULT, from the sums after the last partial block (R90). -/
theorem finishMessage_result_of_sums (s : State) :
    (finishMessage s).result
      = checksumOf (sumsOf (endPartialBlock (flushIfPending s))).a
          (sumsOf (endPartialBlock (flushIfPending s))).b := rfl

/-- FINISH forms RESULT from what is live: the sums, and LEAD where a lead is pending. -/
theorem SameLive.finishMessage {s t : State} (h : SameLive s t) (hm : s.mode ≠ .idle) :
    SameLive (finishMessage s) (finishMessage t) := by
  cases hp : s.pend with
  | true => rw [h.eq_of_pend hm hp]; exact .refl _
  | false =>
    obtain ⟨ha, hb, hc⟩ := h.sums hm
    have hs : flushIfPending s = s := by simp [flushIfPending, hp]
    have ht : flushIfPending t = t := by simp [flushIfPending, ← h.pend, hp]
    have hresult : (Machine.finishMessage s).result = (Machine.finishMessage t).result := by
      rw [finishMessage_result_of_sums, finishMessage_result_of_sums, hs, ht, sumsOf_endPartialBlock,
        sumsOf_endPartialBlock, h.sumsOf_eq hm, ha, hb, hc]
    exact ⟨by simp, by simp, hresult, by simp, by simp [h.ill], by simp [h.inv, h.pend], by simp [h.input],
      by simp, by simp⟩

theorem SameLive.effect {s t : State} (h : SameLive s t) (i : Instr)
    (hopen : i.needsMessage = true → s.mode ≠ .idle) : SameLive (effect i s) (effect i t) := by
  cases i with
  | nop n => exact h
  | startBytes => exact h.startMessage .bytes
  | startBstr => exact h.startMessage .bstr
  | startText => exact h.startMessage .text
  | feed d => exact h.feedEffect (hopen rfl) d
  | finish =>
    rw [effect_finish_open s (hopen rfl), effect_finish_open t (h.mode ▸ hopen rfl)]
    exact h.finishMessage (hopen rfl)

/-- Every event keeps the relation. -/
theorem SameLive.eventEffect {s t : State} (h : SameLive s t) (e : HostEvent) :
    SameLive (eventEffect e s) (eventEffect e t) := by
  cases e with
  | idle => exact h
  | reset => exact h.resetBlock
  | command w =>
    cases hd : decode w s.mode with
    | refused r =>
      rw [eventEffect_refused hd, eventEffect_refused (h.mode ▸ hd)]
      exact h.setIll
    | accepted i =>
      rw [eventEffect_accepted hd, eventEffect_accepted (h.mode ▸ hd)]
      exact h.effect i (decode_accepted_open hd)

theorem SameLive.eventsEffect {s t : State} (h : SameLive s t) (es : List HostEvent) :
    SameLive (eventsEffect es s) (eventsEffect es t) := by
  induction es generalizing s t with
  | nil => exact h
  | cons e es ih => exact ih (h.eventEffect e)

/-- Settles O44: the relation is kept by the event that the step takes. -/
theorem deadStateIsUnobservable : Obligations.DeadStateIsUnobservable := by
  intro s t h
  refine ⟨h.statusPort_eq, h.result, ?_⟩
  cases hin : s.input with
  | nil =>
    exact ⟨s, t, step_of_no_input hin, step_of_no_input (h.input ▸ hin), h⟩
  | cons e rest =>
    exact ⟨_, _, step_of_input hin, step_of_input (h.input ▸ hin), (h.eventEffect e).withInput rest⟩

/-- Settles O1: at reset no message is open and no lead is pending, so `A`, `B`, `CNT` and LEAD are dead. -/
theorem resetValuesAndUnobservableOnes : Obligations.ResetValuesAndUnobservableOnes := by
  refine ⟨by decide, fun a b cnt lead es => ?_⟩
  have hlive : SameLive State.reset { State.reset with a := a, b := b, cnt := cnt, lead := lead } :=
    ⟨rfl, rfl, rfl, rfl, rfl, rfl, rfl, nofun, fun hm => absurd rfl hm⟩
  have hrun := hlive.eventsEffect es
  exact ⟨_, _, runEvents_eq es _, runEvents_eq es _, hrun.statusPort_eq, hrun.result⟩

end Sys2Proof.Machine
end

section
/-! O45: ILL and INV are never read (spec/10_state.md R30, spec/60_exceptions.md R134): each operation commutes with
dropping the two flags. -/

namespace Sys2Proof.Machine

/-- The state without what ILL and INV hold. -/
def dropFlags (s : State) : State := { s with ill := false, inv := false }

theorem dropFlags_eq_iff {u t : State} :
    dropFlags u = dropFlags t ↔ ({ u with ill := t.ill, inv := t.inv } : State) = t := by
  cases u
  cases t
  simp [dropFlags]

@[simp] theorem dropFlags_mode (s : State) : (dropFlags s).mode = s.mode := rfl
@[simp] theorem dropFlags_pend (s : State) : (dropFlags s).pend = s.pend := rfl
@[simp] theorem dropFlags_lead (s : State) : (dropFlags s).lead = s.lead := rfl
@[simp] theorem dropFlags_dropFlags (s : State) : dropFlags (dropFlags s) = dropFlags s := rfl
theorem dropFlags_withInput (es : List HostEvent) (s : State) :
    dropFlags (withInput es s) = withInput es (dropFlags s) := rfl
@[simp] theorem dropFlags_setIll (s : State) : dropFlags (setIll s) = dropFlags s := rfl
@[simp] theorem dropFlags_setInvIf (c : Bool) (s : State) : dropFlags (setInvIf c s) = dropFlags s := rfl
@[simp] theorem dropFlags_latchLead (u : Elem) (s : State) :
    dropFlags (latchLead u s) = latchLead u (dropFlags s) := rfl
@[simp] theorem dropFlags_clearPend (s : State) : dropFlags (clearPend s) = clearPend (dropFlags s) := rfl
@[simp] theorem dropFlags_acc (v : Byte) (s : State) : dropFlags (acc v s) = acc v (dropFlags s) := by
  rw [acc_eq_withSums, acc_eq_withSums]; rfl
@[simp] theorem dropFlags_accAll (vs : List Byte) (s : State) :
    dropFlags (accAll vs s) = accAll vs (dropFlags s) := by
  rw [accAll_eq_withSums, accAll_eq_withSums]; rfl
@[simp] theorem dropFlags_emit4 (t : Elem) (s : State) : dropFlags (emit4 t s) = emit4 t (dropFlags s) := by
  simp [emit4]
@[simp] theorem dropFlags_endPartialBlock (s : State) :
    dropFlags (endPartialBlock s) = endPartialBlock (dropFlags s) := by
  rw [endPartialBlock_eq, endPartialBlock_eq]; rfl
@[simp] theorem dropFlags_final (s : State) : dropFlags (final s) = final (dropFlags s) := rfl
@[simp] theorem dropFlags_closeMessage (s : State) :
    dropFlags (closeMessage s) = closeMessage (dropFlags s) := rfl

theorem dropFlags_feedEffect (d : Elem) (s : State) :
    dropFlags (feedEffect d s) = dropFlags (feedEffect d (dropFlags s)) := by
  cases hm : s.mode with
  | idle => simp [feedEffect, hm, refuse]
  | bytes => simp [feedEffect, hm, feedBytes]
  | bstr => simp [feedEffect, hm, feedBstr]
  | text =>
    cases hp : s.pend with
    | true => simp [feedEffect, hm, feedText, hp, trail]
    | false =>
      simp only [feedEffect, hm, dropFlags_mode, feedText, dropFlags_pend, hp, Bool.false_eq_true, if_false]
      split_ifs <;> simp [leadIn]

theorem dropFlags_finishEffect (s : State) :
    dropFlags (finishEffect s) = dropFlags (finishEffect (dropFlags s)) := by
  have hflush : dropFlags (flushIfPending s) = dropFlags (flushIfPending (dropFlags s)) := by
    cases hp : s.pend <;> simp [flushIfPending, hp, flush]
  cases hm : s.mode <;> simp [finishEffect, hm, refuse, finishMessage, hflush]

theorem dropFlags_effect (i : Instr) (s : State) :
    dropFlags (effect i s) = dropFlags (effect i (dropFlags s)) := by
  cases i with
  | feed d => exact dropFlags_feedEffect d s
  | finish => exact dropFlags_finishEffect s
  | _ => rfl

theorem dropFlags_eventEffect (e : HostEvent) (s : State) :
    dropFlags (eventEffect e s) = dropFlags (eventEffect e (dropFlags s)) := by
  cases e with
  | idle => rfl
  | reset => rfl
  | command w =>
    cases hd : decode w s.mode with
    | refused r => rw [eventEffect_refused hd, eventEffect_refused (s := dropFlags s) hd]; rfl
    | accepted i =>
      rw [eventEffect_accepted hd, eventEffect_accepted (s := dropFlags s) hd, dropFlags_effect]

/-- From two states that differ in the flags alone a step takes the same event, to two such states. -/
theorem step_of_dropFlags_eq {s t u : State} (h : step s = .next t) (hu : dropFlags u = dropFlags s) :
    ∃ v, step u = .next v ∧ dropFlags v = dropFlags t := by
  have hinput : u.input = s.input := (congrArg State.input hu :)
  cases hin : s.input with
  | nil =>
    rw [step_of_no_input hin] at h
    obtain rfl := Host.Outcome.next.inj h
    exact ⟨u, step_of_no_input (hinput.trans hin), hu⟩
  | cons e rest =>
    rw [step_of_input hin] at h
    obtain rfl := Host.Outcome.next.inj h
    refine ⟨_, step_of_input (hinput.trans hin), ?_⟩
    rw [dropFlags_withInput, dropFlags_withInput, dropFlags_eventEffect, hu, ← dropFlags_eventEffect]

/-- Settles O45: the state with other flags differs from `s` in the flags alone. -/
theorem flagsNeverChangeTheResult : Obligations.FlagsNeverChangeTheResult := by
  intro s t ill inv h
  obtain ⟨u, hu, hflags⟩ := step_of_dropFlags_eq (u := { s with ill := ill, inv := inv }) h rfl
  exact ⟨u, hu, dropFlags_eq_iff.1 hflags⟩

end Sys2Proof.Machine
end

section
/-! SUPPORT. The sums within R85's bounds: no `ACC` wraps, and from START on the sums are those of R87's formulas for the
units accumulated so far (spec/40_core_engine.md R80 to R87). -/

namespace Sys2Proof.Machine

/-- `Bounded`, of the sums alone. -/
def SumsBounded (x : Sums) : Prop := x.cnt.toNat ≤ 3849 ∧ AccBounds x.cnt.toNat x.a x.b

theorem bounded_iff_sumsBounded (s : State) : Bounded s ↔ SumsBounded (sumsOf s) := Iff.rfl

theorem triangle_succ (k : Nat) : (k + 1) * (k + 1 + 1) / 2 = k * (k + 1) / 2 + (k + 1) := by
  rw [show (k + 1) * (k + 1 + 1) = k * (k + 1) + (k + 1) * 2 by ring, Nat.add_mul_div_right _ _ (by decide)]

theorem triangle_le {k : Nat} (h : k ≤ 3849) : k * (k + 1) / 2 ≤ 7409325 :=
  Nat.div_le_div_right (Nat.mul_le_mul h (Nat.succ_le_succ h))

/-- Within the bounds one more unit wraps neither sum, and the bounds hold for one unit more (R85). -/
theorem AccBounds.add_unit {k : Nat} {a b : Word} (h : AccBounds k a b) (hk : k ≤ 3849) (v : Byte) :
    (a + v.setWidth 32).toNat = a.toNat + v.toNat ∧
    (b + (a + v.setWidth 32)).toNat = b.toNat + (a.toNat + v.toNat) ∧
    AccBounds (k + 1) (a + v.setWidth 32) (b + (a + v.setWidth 32)) := by
  obtain ⟨ha, hb⟩ := h
  have hv := v.isLt
  have htri := triangle_le hk
  have hA : (a + v.setWidth 32).toNat = a.toNat + v.toNat := by
    simp only [BitVec.toNat_add, BitVec.toNat_setWidth]
    omega
  have hB : (b + (a + v.setWidth 32)).toNat = b.toNat + (a.toNat + v.toNat) := by
    rw [BitVec.toNat_add, hA]
    omega
  refine ⟨hA, hB, ?_⟩
  rw [AccBounds, hA, hB, triangle_succ]
  omega

/-- The fold at the end of a block brings the sums back into the bounds of its start (R85). -/
theorem AccBounds.fold {a b : Word} (h : AccBounds 3850 a b) : AccBounds 0 (fold a) (fold b) := by
  obtain ⟨ha, hb⟩ := h
  rw [AccBounds, fold_toNat, fold_toNat]
  omega

theorem SumsBounded.accSums {x : Sums} (h : SumsBounded x) (v : Byte) : SumsBounded (accSums v x) := by
  obtain ⟨hcnt, hacc⟩ := h
  obtain ⟨-, -, hnext⟩ := hacc.add_unit hcnt v
  rcases accSums_cases v hcnt with ⟨hlast, heq⟩ | ⟨hlt, hsucc, heq⟩
  · rw [hlast] at hnext
    rw [heq]
    exact ⟨by simp, hnext.fold⟩
  · rw [heq]
    refine ⟨by simp only [hsucc]; omega, ?_⟩
    simpa only [hsucc] using hnext

theorem unitSum_append_singleton (vs : List Byte) (v : Byte) : unitSum (vs ++ [v]) = unitSum vs + v.toNat := by
  simp [unitSum, Nat.add_assoc]

theorem unitSumOfSums_append_singleton (vs : List Byte) (v : Byte) :
    unitSumOfSums (vs ++ [v]) = unitSumOfSums vs + unitSum (vs ++ [v]) := by
  have htake : (List.range vs.length).map (fun i => unitSum ((vs ++ [v]).take (i + 1)))
      = (List.range vs.length).map (fun i => unitSum (vs.take (i + 1))) := by
    refine List.map_congr_left fun i hi => ?_
    rw [List.take_append_of_le_length (List.mem_range.1 hi)]
  have hwhole : (vs ++ [v]).take (vs.length + 1) = vs ++ [v] := List.take_of_length_le (by simp)
  simp only [unitSumOfSums, List.length_append, List.length_singleton, List.range_succ, List.map_append,
    List.map_singleton, List.sum_append, List.sum_singleton, htake, hwhole]

/-- The sums after a message's units so far: R87's formulas mod 65521, and CNT the number of units in the block. -/
structure SumsOfUnits (vs : List Byte) (x : Sums) : Prop where
  bounded : SumsBounded x
  a_mod : x.a.toNat % 65521 = unitSum vs % 65521
  b_mod : x.b.toNat % 65521 = unitSumOfSums vs % 65521
  cnt_eq : x.cnt.toNat = vs.length % 3850

theorem sumsOfUnits_start (m : Mode) (s : State) : SumsOfUnits [] (sumsOf (startMessage m s)) :=
  ⟨by simp [SumsBounded, AccBounds], rfl, rfl, rfl⟩

/-- One unit more: both sums grow by R87's terms, and the fold keeps their residues (R83). -/
theorem SumsOfUnits.snoc {vs : List Byte} {x : Sums} (h : SumsOfUnits vs x) (v : Byte) :
    SumsOfUnits (vs ++ [v]) (accSums v x) := by
  obtain ⟨hbounded, ha, hb, hcnt⟩ := h
  obtain ⟨hA, hB, -⟩ := hbounded.2.add_unit hbounded.1 v
  have hnext := hbounded.accSums v
  have hunits := unitSum_append_singleton vs v
  have hA_mod : (x.a + v.setWidth 32).toNat % 65521 = unitSum (vs ++ [v]) % 65521 := by
    omega
  have hB_mod : (x.b + (x.a + v.setWidth 32)).toNat % 65521 = unitSumOfSums (vs ++ [v]) % 65521 := by
    rw [unitSumOfSums_append_singleton]
    omega
  have hlen : (vs ++ [v]).length = vs.length + 1 := by simp
  rcases accSums_cases v hbounded.1 with ⟨hlast, heq⟩ | ⟨hlt, hsucc, heq⟩ <;> rw [heq] at hnext ⊢
  · refine ⟨hnext, (fold_mod _).trans hA_mod, (fold_mod _).trans hB_mod, ?_⟩
    rw [hlen, BitVec.toNat_ofNat]
    omega
  · refine ⟨hnext, hA_mod, hB_mod, ?_⟩
    rw [hlen, hsucc]
    omega

theorem SumsOfUnits.append {vs : List Byte} {x : Sums} (h : SumsOfUnits vs x) (ws : List Byte) :
    SumsOfUnits (vs ++ ws) (accAllSums ws x) := by
  induction ws generalizing vs x with
  | nil => simpa using h
  | cons w ws ih => simpa using ih (h.snoc w)

end Sys2Proof.Machine
end

section
/-! SUPPORT. The body of an open message is its FEEDs, and the units they accumulate are those of the whole data sequence
(spec/70_reset_and_hazards.md R154, spec/42_text_feed.md R110 to R120). -/

namespace Sys2Proof.Machine

theorem decode_of_not_needsMessage {w : Word} {i : Instr} (m : Mode) (h : decodeWord w = .accepted i)
    (hi : i.needsMessage = false) : decode w m = .accepted i := by
  simp [decode, h, hi]

theorem decode_of_open {w : Word} {i : Instr} {m : Mode} (h : decodeWord w = .accepted i) (hm : m ≠ .idle) :
    decode w m = .accepted i := by
  simp [decode, h, hm]

/-- START with a mode that opens is accepted in every state (R89). -/
theorem eventEffect_startWord {m : Mode} (hm : m.opens = true) (s : State) :
    eventEffect (.command (startWord m)) s = startMessage m s := by
  cases m with
  | idle => cases hm
  | bytes =>
    exact eventEffect_accepted (i := .startBytes) (decode_of_not_needsMessage s.mode (by decide) rfl)
  | bstr => exact eventEffect_accepted (i := .startBstr) (decode_of_not_needsMessage s.mode (by decide) rfl)
  | text => exact eventEffect_accepted (i := .startText) (decode_of_not_needsMessage s.mode (by decide) rfl)

/-- The FEEDs of a data sequence, in order. -/
def feedAll (ds : List Elem) (s : State) : State := ds.foldl (fun t d => feedEffect d t) s

@[simp] theorem feedAll_nil (s : State) : feedAll [] s = s := rfl
@[simp] theorem feedAll_cons (d : Elem) (ds : List Elem) (s : State) :
    feedAll (d :: ds) s = feedAll ds (feedEffect d s) := rfl

/-- What each FEED keeps, all of them keep. -/
theorem feedAll_keeps {α : Type} {f : State → α} (hf : ∀ d s, f (feedEffect d s) = f s)
    (ds : List Elem) (s : State) : f (feedAll ds s) = f s := by
  induction ds generalizing s with
  | nil => rfl
  | cons d ds ih => rw [feedAll_cons, ih, hf]

@[simp] theorem feedAll_mode (ds : List Elem) (s : State) : (feedAll ds s).mode = s.mode :=
  feedAll_keeps feedEffect_mode ds s
@[simp] theorem feedAll_result (ds : List Elem) (s : State) : (feedAll ds s).result = s.result :=
  feedAll_keeps feedEffect_result ds s
@[simp] theorem feedAll_done (ds : List Elem) (s : State) : (feedAll ds s).done = s.done :=
  feedAll_keeps feedEffect_done ds s

/-- The three kinds of body event, with the element each feeds. -/
theorem isBodyEvent_cases {e : HostEvent} (h : isBodyEvent e = true) :
    (e = .idle ∧ feedDatum e = none) ∨
    (∃ w n, e = .command w ∧ decodeWord w = .accepted (.nop n) ∧ feedDatum e = none) ∨
    (∃ w d, e = .command w ∧ decodeWord w = .accepted (.feed d) ∧ feedDatum e = some d) := by
  cases e with
  | idle => exact .inl ⟨rfl, rfl⟩
  | reset => cases h
  | command w =>
    simp only [isBodyEvent] at h
    split at h
    · rename_i n hd
      exact .inr (.inl ⟨w, n, rfl, hd, by simp only [feedDatum, hd]⟩)
    · rename_i d hd
      exact .inr (.inr ⟨w, d, rfl, hd, by simp only [feedDatum, hd]⟩)
    · cases h

/-- With a message open, the effect of a body is that of its FEEDs (R154, R157). -/
theorem eventsEffect_body {body : List HostEvent} (hbody : ∀ e ∈ body, isBodyEvent e = true) {s : State}
    (hm : s.mode ≠ .idle) : eventsEffect body s = feedAll (fedData body) s := by
  induction body generalizing s with
  | nil => rfl
  | cons e body ih =>
    have hrest := fun f hf => hbody f (List.mem_cons_of_mem e hf)
    rw [eventsEffect_cons, fedData]
    rcases isBodyEvent_cases (hbody e List.mem_cons_self) with
      ⟨rfl, hfed⟩ | ⟨w, n, rfl, hd, hfed⟩ | ⟨w, d, rfl, hd, hfed⟩
    · rw [List.filterMap_cons_none hfed]
      exact ih hrest hm
    · rw [List.filterMap_cons_none hfed, eventEffect_accepted (decode_of_open hd hm)]
      exact ih hrest hm
    · rw [List.filterMap_cons_some hfed, eventEffect_accepted (decode_of_open hd hm)]
      exact ih hrest (by simpa using hm)

/-- BYTES and BSTR accumulate each element's low byte (R101, R102). -/
theorem sumsOf_feedAll_bytes (ds : List Elem) {s : State} (hm : s.mode = .bytes ∨ s.mode = .bstr) :
    sumsOf (feedAll ds s) = accAllSums (ds.map byteOperand) (sumsOf s) := by
  induction ds generalizing s with
  | nil => rfl
  | cons d ds ih =>
    have hunits : feedUnits d s = [byteOperand d] := by
      rcases hm with hm | hm <;> simp [feedUnits, hm]
    rw [feedAll_cons, ih (by simpa using hm), sumsOf_feedEffect, hunits]
    rfl

theorem feedUnits_of_plain {u : Elem} {s : State} (hm : s.mode = .text) (hp : s.pend = false)
    (hu : isSurrogate u = false) : feedUnits u s = plainBytes u := by
  simp [feedUnits, hm, hp, hu]

/-- A lead and its trail accumulate the pair's four bytes together (R115 to R117). -/
theorem sumsOf_feed_pair {u : Elem} (t : Elem) {s : State} (hm : s.mode = .text) (hp : s.pend = false)
    (hu : isSurrogate u = true) :
    sumsOf (feedEffect t (feedEffect u s)) = accAllSums (fourBytes (pairCodePoint (leadBits u) t)) (sumsOf s) := by
  have htrail : feedUnits t (feedEffect u s) = fourBytes (pairCodePoint (leadBits u) t) := by
    simp [feedUnits, feedEffect_pend, feedEffect_lead, hm, hp, hu]
  rw [sumsOf_feedEffect, sumsOf_feedEffect, htrail, feedUnits_of_lead hm hp hu, accAllSums_nil]

/-- With no lead pending, TEXT accumulates what the encoder emits for the units so far; the induction follows
`textEmitted`, which takes a lead with its trail. -/
theorem sumsOf_feedAll_text (us : List Elem) {s : State} (hm : s.mode = .text) (hp : s.pend = false) :
    sumsOf (feedAll us s) = accAllSums (textEmitted us) (sumsOf s) := by
  induction us using textEmitted.induct generalizing s with
  | case1 => rfl
  | case2 u hu => simp [textEmitted, hu, feedUnits_of_lead hm hp hu]
  | case3 u hu =>
    rw [Bool.not_eq_true] at hu
    simp [textEmitted, hu, feedUnits_of_plain hm hp hu]
  | case4 u t rest hu ih =>
    have hrest := ih (s := feedEffect t (feedEffect u s)) (by simp [hm]) (by simp [feedEffect_pend, hm, hp, hu])
    simp only [textEmitted, hu, if_true, accAllSums_append, feedAll_cons, hrest, sumsOf_feed_pair t hm hp hu]
  | case5 u t rest hu ih =>
    rw [Bool.not_eq_true] at hu
    have hrest := ih (s := feedEffect u s) (by simp [hm]) (by simp [feedEffect_pend, hm, hp, hu])
    rw [feedAll_cons, hrest, sumsOf_feedEffect, feedUnits_of_plain hm hp hu, textEmitted, hu, ← accAllSums_append]
    rfl

/-- The units of every mode. -/
theorem sumsOf_feedAll (ds : List Elem) {s : State} (hm : s.mode ≠ .idle) (hp : s.pend = false) :
    sumsOf (feedAll ds s) = accAllSums (emittedUnits s.mode ds) (sumsOf s) := by
  cases hmode : s.mode with
  | idle => exact absurd hmode hm
  | bytes => exact sumsOf_feedAll_bytes ds (.inl hmode)
  | bstr => exact sumsOf_feedAll_bytes ds (.inr hmode)
  | text => exact sumsOf_feedAll_text ds hmode hp

/-- Settles O38: after START the body is its FEEDs, whose units are those of `emittedUnits`, and START's sums with these
units appended are R87's. -/
theorem openMessageSums : Obligations.OpenMessageSums := by
  intro m body s hm hbody
  have hopen : (startMessage m s).mode ≠ .idle := by
    rintro rfl
    cases hm
  have hrun : runEvents (.command (startWord m) :: body) s = .next (feedAll (fedData body) (startMessage m s)) := by
    rw [runEvents_eq, eventsEffect_cons, eventEffect_startWord hm, eventsEffect_body hbody hopen]
  have hunits := (sumsOfUnits_start m s).append (emittedUnits m (fedData body))
  have hsums := sumsOf_feedAll (fedData body) hopen rfl
  rw [startMessage_mode] at hsums
  rw [← hsums] at hunits
  exact ⟨_, hrun, hunits.a_mod, hunits.b_mod, hunits.cnt_eq, by simp, by simp, by simp⟩

end Sys2Proof.Machine
end

section
/-! O43: a message's RESULT and INV come from what START fixes and the FEEDs' data alone (spec/20_memory.md R53,
spec/40_core_engine.md R92). -/

namespace Sys2Proof.Machine

/-- The two states agree in everything that an open message reads: they may differ in RESULT, DONE, ILL and the host's
events. -/
structure SameMessage (s t : State) : Prop where
  mode : s.mode = t.mode
  pend : s.pend = t.pend
  lead : s.lead = t.lead
  inv : s.inv = t.inv
  sums : sumsOf s = sumsOf t

/-- START makes any two states agree (R89). -/
theorem sameMessage_startMessage (m : Mode) (s t : State) : SameMessage (startMessage m s) (startMessage m t) :=
  ⟨rfl, rfl, rfl, rfl, rfl⟩

theorem SameMessage.feedUnits_eq {s t : State} (h : SameMessage s t) (d : Elem) : feedUnits d s = feedUnits d t := by
  simp only [feedUnits, h.mode, h.pend, h.lead]

theorem SameMessage.feedEffect {s t : State} (h : SameMessage s t) (hm : s.mode ≠ .idle) (d : Elem) :
    SameMessage (feedEffect d s) (feedEffect d t) where
  mode := by simp only [feedEffect_mode, h.mode]
  pend := by simp only [feedEffect_pend, h.mode, h.pend]
  lead := by simp only [feedEffect_lead, h.mode, h.pend, h.lead]
  inv := by rw [feedEffect_inv d s hm, feedEffect_inv d t (h.mode ▸ hm), h.mode, h.pend, h.inv]
  sums := by simp only [sumsOf_feedEffect, h.feedUnits_eq, h.sums]

theorem SameMessage.feedAll {s t : State} (h : SameMessage s t) (hm : s.mode ≠ .idle) (ds : List Elem) :
    SameMessage (feedAll ds s) (feedAll ds t) := by
  induction ds generalizing s t with
  | nil => exact h
  | cons d ds ih => exact ih (h.feedEffect hm d) (by simpa using hm)

/-- The sums once a pending lead is flushed (R90, R119). -/
theorem sumsOf_flushIfPending (s : State) :
    sumsOf (flushIfPending s)
      = if s.pend then accAllSums (fourBytes (pairCodePoint s.lead 0#16)) (sumsOf s) else sumsOf s := by
  cases h : s.pend <;> simp [flushIfPending, h]

/-- FINISH forms RESULT from the sums and the pending lead alone (R86, R90). -/
theorem SameMessage.finishMessage_result {s t : State} (h : SameMessage s t) :
    (finishMessage s).result = (finishMessage t).result := by
  have hflush : sumsOf (flushIfPending s) = sumsOf (flushIfPending t) := by
    simp only [sumsOf_flushIfPending, h.pend, h.lead, h.sums]
  obtain ⟨ha, hb, hcnt⟩ := sumsOf_eq_iff.1 hflush
  simp only [finishMessage_result_of_sums, sumsOf_endPartialBlock, hflush, ha, hb, hcnt]

theorem SameMessage.finishMessage_inv {s t : State} (h : SameMessage s t) :
    (finishMessage s).inv = (finishMessage t).inv := by
  rw [Machine.finishMessage_inv, Machine.finishMessage_inv, h.inv, h.pend]

theorem startMessage_open {m : Mode} (hm : m.opens = true) (s : State) : (startMessage m s).mode ≠ .idle := by
  rintro rfl
  cases hm

/-- A whole message: START, the FEEDs of the body, and FINISH with the message open (R154). -/
theorem runEvents_messageEvents {m : Mode} (hm : m.opens = true) {body : List HostEvent}
    (hbody : ∀ e ∈ body, isBodyEvent e = true) (s : State) :
    runEvents (messageEvents m body) s = .next (finishMessage (feedAll (fedData body) (startMessage m s))) := by
  have hopen := startMessage_open hm s
  have hfed : (feedAll (fedData body) (startMessage m s)).mode ≠ .idle := by rwa [feedAll_mode]
  have hfinish : decodeWord (encode .finish) = .accepted .finish := by decide
  rw [runEvents_eq, messageEvents, eventsEffect_cons, eventEffect_startWord hm, eventsEffect_append,
    eventsEffect_body hbody hopen, eventsEffect_cons, eventEffect_accepted (decode_of_open hfinish hfed),
    effect_finish_open _ hfed, eventsEffect_nil]

/-- Settles O43: START makes the two states agree, the same FEEDs keep them so, and FINISH reads nothing else. -/
theorem resultDependsOnlyOnMessage : Obligations.ResultDependsOnlyOnMessage := by
  intro m body₁ body₂ s₁ s₂ hm hbody₁ hbody₂ hdata
  have hsame := (sameMessage_startMessage m s₁ s₂).feedAll (startMessage_open hm s₁) (fedData body₂)
  have hrun₁ := runEvents_messageEvents hm hbody₁ s₁
  rw [hdata] at hrun₁
  exact ⟨_, _, hrun₁, runEvents_messageEvents hm hbody₂ s₂, hsame.finishMessage_result, hsame.finishMessage_inv⟩

end Sys2Proof.Machine
end

section
/-! O47: the clocked shell refines the untimed machine (spec/20_memory.md R48, R49, spec/70_reset_and_hazards.md R158). -/

namespace Sys2Proof.Machine

/-- With CMD_LATENCY 0 the accepted command lands at once; otherwise the block waits (R56, R158). -/
theorem acceptAtEdge_block (p : Config.OpenParams) (w : Word) (h : Shell) :
    (acceptAtEdge p w h).block
      = if p.cmdLatency h.accepted = 0 then eventEffect (.command w) h.block else h.block := by
  unfold acceptAtEdge
  cases p.cmdLatency h.accepted <;> rfl

/-- At an edge without reset the block does what lands there: the command in flight at its last busy edge, or a command
accepted with CMD_LATENCY 0. -/
theorem clockEdge_block (p : Config.OpenParams) (pins : Pins) (h : Shell)
    (hrst : resetAsserted p.resetStyle pins.rst = false) :
    (clockEdge p pins h).block = eventsEffect (landedEvents p (.edge pins) h) h.block := by
  simp only [clockEdge, landedEvents, hrst]
  cases hf : h.inFlight with
  | some f =>
    cases hr : f.remaining with
    | zero => simp [hr, completeCommand]
    | succ n => simp [hr]
  | none =>
    cases hv : pins.cmdValid with
    | false => simp
    | true => by_cases hl : p.cmdLatency h.accepted = 0 <;> simp [acceptAtEdge_block, hl]

/-- One stimulus: the block does exactly what lands. -/
theorem shellStep_block (p : Config.OpenParams) (x : Stimulus) (h : Shell) :
    (shellStep p x h).block = eventsEffect (landedEvents p x h) h.block := by
  cases x with
  | edge pins =>
    cases hrst : resetAsserted p.resetStyle pins.rst with
    | true => simp only [shellStep, landedEvents, hrst]; rfl
    | false => rw [← clockEdge_block p pins h hrst]; simp only [shellStep, hrst]; rfl
  | rstLevel level =>
    simp only [shellStep, landedEvents]
    split <;> rfl

/-- The commuting diagram along a sequence of stimuli. -/
theorem shellRun_block (p : Config.OpenParams) (xs : List Stimulus) (h : Shell) :
    (shellRun p xs h).block = eventsEffect (landedTrace p xs h) h.block := by
  induction xs generalizing h with
  | nil => rfl
  | cons x xs ih =>
    calc (shellRun p (x :: xs) h).block
        = eventsEffect (landedTrace p xs (shellStep p x h)) (shellStep p x h).block := ih _
      _ = eventsEffect (landedTrace p (x :: xs) h) h.block := by
        rw [shellStep_block, landedTrace, eventsEffect_append]

/-- Settles O47: a run over events is the fold of their effects, and so is the shell's block. -/
theorem shellRefinesUntimedMachine : Obligations.ShellRefinesUntimedMachine := by
  intro p xs h
  rw [runEvents_eq, shellRun_block]

end Sys2Proof.Machine
end

section
/-! O3: a step runs the decoded command (spec/20_memory.md R48, R49, spec/30_encoding.md R66). -/

namespace Sys2Proof.Machine

/-- With no message open, `exec` of a FEED or FINISH answers what refusing it answers (R100, R132). -/
theorem exec_of_noMessage {i : Instr} {s : State} (hn : i.needsMessage = true) (hm : s.mode = .idle) :
    exec i s = .next (refuse .noMessage s) := by
  cases i with
  | feed d => exact congrArg _ (feedEffect_idle d s hm)
  | finish => exact congrArg _ (finishEffect_idle s hm)
  | _ => cases hn

/-- Accepting a word that decodes to a command is `exec` of the command, in every mode. -/
theorem acceptCommand_of_decodeWord {w : Word} {i : Instr} (h : decodeWord w = .accepted i) (s : State) :
    acceptCommand w s = exec i s := by
  by_cases hc : i.needsMessage = true ∧ s.mode = .idle
  · obtain ⟨hn, hm⟩ := hc
    have hd : decode w s.mode = .refused .noMessage := by simp [decode, h, hn, hm]
    rw [exec_of_noMessage hn hm]
    simp only [acceptCommand, hd]
  · have hd : decode w s.mode = .accepted i := by simp only [decode, h, if_neg hc]
    simp only [acceptCommand, hd]

/-- A step whose next event is a command word accepts it. -/
theorem step_of_command {s : State} {w : Word} {rest : List HostEvent} (h : s.input = .command w :: rest) :
    step s = acceptCommand w (withInput rest s) := by
  simp only [step, nextEvent, h, takeEvent]

theorem step_of_decodeWord {s : State} {w : Word} {rest : List HostEvent} {i : Instr}
    (hin : s.input = .command w :: rest) (hd : decodeWord w = .accepted i) : step s = exec i (withInput rest s) := by
  rw [step_of_command hin, acceptCommand_of_decodeWord hd]

/-- A table word that decodes to a command is a 32-bit word that decodes to it. -/
theorem decodeTableWord_eq_some {nbits w : Nat} {i : Instr} (h : decodeTableWord nbits w = some i) :
    ∃ v, tableWord nbits w = some v ∧ decodeWord v = .accepted i := by
  unfold decodeTableWord at h
  split at h
  · cases h
  · next v hv =>
    split at h
    · next j hj => exact ⟨v, hv, by rw [hj, Option.some.inj h]⟩
    · cases h

/-- Settles O3: the step accepts the word that the host presents; a table word placed first is that word, and taking it off
leaves the state as it was. -/
theorem stepRunsDecodedCommand : Obligations.StepRunsDecodedCommand := by
  refine ⟨fun _ _ _ _ => step_of_decodeWord, fun s nbits w i h => ?_⟩
  obtain ⟨v, hv, hd⟩ := decodeTableWord_eq_some h
  have hplaced : s.withFetchWord nbits w = presentCommand v s := by simp only [State.withFetchWord, hv]
  rw [hplaced]
  exact step_of_decodeWord (s := presentCommand v s) (rest := s.input) rfl hd

end Sys2Proof.Machine
end

section
/-! SUPPORT. Which words decode to which command: the fields of a word determine it, and the words that decode to a command are
its encoding alone (spec/30_encoding.md R57, R63, R67). -/

namespace Sys2Proof

theorem opField_eq_iff (w : Word) (op : BitVec 4) : opField w = op ↔ w.toNat / 2 ^ 28 = op.toNat := by
  rw [← BitVec.toNat_inj, opField_toNat]

theorem rsvField_eq_iff (w : Word) (rsv : BitVec 12) :
    rsvField w = rsv ↔ w.toNat / 2 ^ 16 % 2 ^ 12 = rsv.toNat := by
  rw [← BitVec.toNat_inj, rsvField_toNat]

theorem dataField_eq_iff (w : Word) (d : Elem) : dataField w = d ↔ w.toNat % 2 ^ 16 = d.toNat := by
  rw [← BitVec.toNat_inj, dataField_toNat]

/-- OP, RSV and DATA hold every bit of a word (R57). -/
theorem eq_of_fields_eq {v w : Word} (hop : opField v = opField w) (hrsv : rsvField v = rsvField w)
    (hdata : dataField v = dataField w) : v = w := by
  rw [opField_eq_iff, opField_toNat] at hop
  rw [rsvField_eq_iff, rsvField_toNat] at hrsv
  rw [dataField_eq_iff, dataField_toNat] at hdata
  apply BitVec.eq_of_toNat_eq
  omega

/-- An OP that is not reserved is one of the four that R58 names. -/
theorem opField_cases {w : Word} (h : ¬ 4#4 ≤ opField w) :
    opField w = 0#4 ∨ opField w = 1#4 ∨ opField w = 2#4 ∨ opField w = 3#4 := by
  bv_omega

theorem dataField_head_or {hd : Word} (hhd : dataField hd = 0#16) (d : Elem) :
    dataField (hd ||| d.setWidth 32) = d := by
  rw [dataField_or, hhd, BitVec.zero_or]

/-- START's operands are its three `MSEL` values (R59). -/
theorem decodeStart_eq_accepted {d : Elem} {i : Instr} (h : decodeStart d = .accepted i) :
    d = 1#16 ∧ i = .startBytes ∨ d = 2#16 ∧ i = .startBstr ∨ d = 3#16 ∧ i = .startText := by
  unfold decodeStart at h
  split at h
  · next hd => exact .inl ⟨hd, (Decoded.accepted.inj h).symm⟩
  split at h
  · next hd => exact .inr (.inl ⟨hd, (Decoded.accepted.inj h).symm⟩)
  split at h
  · next hd => exact .inr (.inr ⟨hd, (Decoded.accepted.inj h).symm⟩)
  · cases h

/-! The fields of the encoder's words. -/

theorem rsvField_encode (i : Instr) : rsvField (encode i) = 0#12 := by
  cases i with
  | nop h => exact rsvField_or 0#32 h
  | feed d => exact rsvField_or 0x20000000#32 d
  | _ => decide

theorem opField_encode_nop (h : Elem) : opField (encode (.nop h)) = 0#4 := opField_or 0#32 h

theorem opField_encode_feed (d : Elem) : opField (encode (.feed d)) = 2#4 := opField_or 0x20000000#32 d

theorem dataField_encode_nop (h : Elem) : dataField (encode (.nop h)) = h := dataField_head_or (by decide) h

theorem dataField_encode_feed (d : Elem) : dataField (encode (.feed d)) = d := dataField_head_or (by decide) d

/-- A word with a command's fields is the command's word. -/
theorem encode_eq_of_fields {i : Instr} {w : Word} (hop : opField w = opField (encode i))
    (hrsv : rsvField w = 0#12) (hdata : dataField w = dataField (encode i)) : encode i = w :=
  eq_of_fields_eq hop.symm ((rsvField_encode i).trans hrsv.symm) hdata.symm

/-! Decoding and encoding. -/

/-- Decoding gives every command back from its word (R67). -/
theorem decodeWord_encode (i : Instr) : decodeWord (encode i) = .accepted i := by
  cases i with
  | nop h => simp [decodeWord, rsvField_encode, opField_encode_nop, dataField_encode_nop]
  | feed d => simp [decodeWord, rsvField_encode, opField_encode_feed, dataField_encode_feed]
  | _ => decide

/-- Every word that decodes to a command is the command's word: each line of R66 that accepts fixes all three fields (R63). -/
theorem encode_of_decodeWord {w : Word} {i : Instr} (h : decodeWord w = .accepted i) : encode i = w := by
  unfold decodeWord at h
  split at h
  · cases h
  next hreserved =>
  split at h
  · cases h
  next hrsv =>
  rw [not_not] at hrsv
  split at h
  · next hop =>
    cases h
    exact encode_eq_of_fields (hop.trans (opField_encode_nop _).symm) hrsv (dataField_encode_nop _).symm
  split at h
  · next hop =>
    rcases decodeStart_eq_accepted h with ⟨hd, rfl⟩ | ⟨hd, rfl⟩ | ⟨hd, rfl⟩
    · exact encode_eq_of_fields hop hrsv hd
    · exact encode_eq_of_fields hop hrsv hd
    · exact encode_eq_of_fields hop hrsv hd
  split at h
  · next hop =>
    cases h
    exact encode_eq_of_fields (hop.trans (opField_encode_feed _).symm) hrsv (dataField_encode_feed _).symm
  split at h
  · cases h
  next hop0 hop1 hop2 hd =>
  rw [not_not] at hd
  cases h
  have hop : opField w = 3#4 := by
    rcases opField_cases hreserved with hop | hop | hop | hop
    · exact absurd hop hop0
    · exact absurd hop hop1
    · exact absurd hop hop2
    · exact hop
  exact encode_eq_of_fields hop hrsv hd

/-- The words of a command are its encoding alone (R63, R65). -/
theorem decodeWord_eq_accepted_iff {w : Word} {i : Instr} : decodeWord w = .accepted i ↔ encode i = w := by
  constructor
  · exact encode_of_decodeWord
  · rintro rfl
    exact decodeWord_encode i

/-- A 32-bit word in the table's numbering is itself (log entry 10). -/
theorem tableWord_toNat (w : Word) : tableWord 32 w.toNat = some w := by
  simp [tableWord, Nat.mod_eq_of_lt w.isLt]

theorem decodeTableWord_of_decodeWord {w : Word} {i : Instr} (h : decodeWord w = .accepted i) :
    decodeTableWord 32 w.toNat = some i := by
  simp only [decodeTableWord, tableWord_toNat, h]

/-- Settles O9: the fields of a command's word say which command it is, and they hold every bit of the word. -/
theorem decodeEncodeRoundTrip : Obligations.DecodeEncodeRoundTrip :=
  ⟨decodeWord_encode, fun _ _ => encode_of_decodeWord, fun i => decodeTableWord_of_decodeWord (decodeWord_encode i)⟩

end Sys2Proof
end

section
/-! O8: the rows of R67's table (spec/30_encoding.md R67). -/

namespace Sys2Proof

theorem selects_iff (r : EncodingRow) (w : Word) : r.selects w = true ↔ w &&& r.mask = r.bits := by
  simp [EncodingRow.selects]

theorem row_mem_encodingRows (i : Instr) : i.row ∈ encodingRows := by
  cases i <;> simp [Instr.row, encodingRows]

/-- The mask of a row with an operand keeps OP and RSV and drops DATA. -/
theorem and_mask_eq_iff {hd : Word} (hhd : dataField hd = 0#16) (w : Word) :
    w &&& 0xFFFF0000#32 = hd ↔ opField w = opField hd ∧ rsvField w = rsvField hd := by
  have hop : opField (w &&& 0xFFFF0000#32) = opField w :=
    (BitVec.extractLsb'_and ..).trans BitVec.and_allOnes
  have hrsv : rsvField (w &&& 0xFFFF0000#32) = rsvField w :=
    (BitVec.extractLsb'_and ..).trans BitVec.and_allOnes
  have hdata : dataField (w &&& 0xFFFF0000#32) = 0#16 :=
    (BitVec.extractLsb'_and ..).trans BitVec.and_zero
  constructor
  · intro h
    rw [← hop, ← hrsv, h]
    exact ⟨rfl, rfl⟩
  · rintro ⟨hw, hw'⟩
    exact eq_of_fields_eq (hop.trans hw) (hrsv.trans hw') (hdata.trans hhd.symm)

/-- The mask of a row without operand keeps every bit. -/
theorem and_fullMask (w : Word) : w &&& 0xFFFFFFFF#32 = w := BitVec.and_allOnes

theorem row_selects_encode (i : Instr) : i.row.selects (encode i) = true := by
  rw [selects_iff]
  cases i with
  | nop h => exact (and_mask_eq_iff (hd := 0#32) (by decide) _).2 ⟨opField_encode_nop h, rsvField_encode _⟩
  | feed d => exact (and_mask_eq_iff (hd := 0x20000000#32) (by decide) _).2 ⟨opField_encode_feed d, rsvField_encode _⟩
  | _ => decide

/-- Every word of a row is a command's: of a row with an operand, that of the command with the word's DATA. -/
theorem exists_encode_of_selects {r : EncodingRow} (hr : r ∈ encodingRows) {w : Word} (h : r.selects w = true) :
    ∃ i, encode i = w := by
  rw [selects_iff] at h
  simp only [encodingRows, List.mem_cons, List.not_mem_nil, or_false] at hr
  rcases hr with rfl | rfl | rfl | rfl | rfl | rfl
  · obtain ⟨hop, hrsv⟩ := (and_mask_eq_iff (by decide) w).1 h
    exact ⟨.nop (dataField w), encode_eq_of_fields (hop.trans (opField_encode_nop _).symm) hrsv
      (dataField_encode_nop _).symm⟩
  · exact ⟨.startBytes, h.symm.trans (and_fullMask w)⟩
  · exact ⟨.startBstr, h.symm.trans (and_fullMask w)⟩
  · exact ⟨.startText, h.symm.trans (and_fullMask w)⟩
  · obtain ⟨hop, hrsv⟩ := (and_mask_eq_iff (by decide) w).1 h
    exact ⟨.feed (dataField w), encode_eq_of_fields (hop.trans (opField_encode_feed _).symm) hrsv
      (dataField_encode_feed _).symm⟩
  · exact ⟨.finish, h.symm.trans (and_fullMask w)⟩

/-- No two rows agree under both masks, so no word belongs to two rows. -/
theorem eq_of_selects {r₁ r₂ : EncodingRow} (h₁ : r₁ ∈ encodingRows) (h₂ : r₂ ∈ encodingRows) {w : Word}
    (hw₁ : r₁.selects w = true) (hw₂ : r₂.selects w = true) : r₁ = r₂ := by
  rw [selects_iff] at hw₁ hw₂
  have hagree : r₁.bits &&& r₂.mask = r₂.bits &&& r₁.mask := by
    rw [← hw₁, ← hw₂, BitVec.and_assoc, BitVec.and_assoc, BitVec.and_comm r₁.mask]
  have hrows : ∀ r ∈ encodingRows, ∀ q ∈ encodingRows, r.bits &&& q.mask = q.bits &&& r.mask → r = q := by decide
  exact hrows r₁ h₁ r₂ h₂ hagree

/-- Settles O8: the words of commands are the encoder's words, and a row selects those of its own commands alone. -/
theorem acceptedWordsAreTheTableRows : Obligations.AcceptedWordsAreTheTableRows := by
  have hrow : ∀ {w : Word} {i : Instr}, decodeWord w = .accepted i → i.row ∈ encodingRows ∧ i.row.selects w = true :=
    fun {_ i} h => encode_of_decodeWord h ▸ ⟨row_mem_encodingRows i, row_selects_encode i⟩
  refine ⟨fun w => ⟨fun ⟨i, h⟩ => ⟨i.row, hrow h⟩, fun ⟨r, hr, h⟩ => ?_⟩, fun _ _ => hrow,
    fun _ _ h₁ _ h₂ => eq_of_selects h₁ h₂⟩
  obtain ⟨i, hi⟩ := exists_encode_of_selects hr h
  exact ⟨i, decodeWord_eq_accepted_iff.2 hi⟩

end Sys2Proof
end

section
/-! O7 and O10: `decode` as R66 writes it, on the fields as numbers (spec/30_encoding.md R66). -/

namespace Sys2Proof

theorem reservedOp_iff (w : Word) : 4#4 ≤ opField w ↔ w.toNat / 2 ^ 28 ≥ 4 := by
  rw [BitVec.le_def, opField_toNat]
  rfl

theorem dataField_eq_ofNat (w : Word) : dataField w = BitVec.ofNat 16 (w.toNat % 2 ^ 16) := by
  rw [dataField_eq_iff]
  simp

/-- START's operand as `DATA[15:2]` and `MSEL` (R59, R66). -/
theorem decodeStart_eq (d : Elem) :
    decodeStart d =
      if d.toNat / 4 ≠ 0 ∨ d.toNat % 4 = 0 then .refused .badStart
      else if d.toNat % 4 = 1 then .accepted .startBytes
      else if d.toNat % 4 = 2 then .accepted .startBstr
      else .accepted .startText := by
  have hcases : d.toNat = 1 ∨ d.toNat = 2 ∨ d.toNat = 3 ∨ (d.toNat / 4 ≠ 0 ∨ d.toNat % 4 = 0) := by omega
  rcases hcases with h | h | h | h
  · simp [decodeStart, ← BitVec.toNat_inj, h]
  · simp [decodeStart, ← BitVec.toNat_inj, h]
  · simp [decodeStart, ← BitVec.toNat_inj, h]
  · have hne : d.toNat ≠ 1 ∧ d.toNat ≠ 2 ∧ d.toNat ≠ 3 := by omega
    simp only [decodeStart, ← BitVec.toNat_inj, BitVec.toNat_ofNat, Nat.reducePow, Nat.reduceMod, hne, if_false,
      if_pos h]

/-- The numeric form of `decodeWord`: R66's lines without the two that ask for the mode. -/
theorem decodeWord_eq (w : Word) :
    decodeWord w =
      if w.toNat / 2 ^ 28 ≥ 4 then .refused .reservedOp
      else if w.toNat / 2 ^ 16 % 2 ^ 12 ≠ 0 then .refused .reservedBits
      else if w.toNat / 2 ^ 28 = 0 then .accepted (.nop (dataField w))
      else if w.toNat / 2 ^ 28 = 1 then decodeStart (dataField w)
      else if w.toNat / 2 ^ 28 = 2 then .accepted (.feed (dataField w))
      else if w.toNat % 2 ^ 16 ≠ 0 then .refused .badFinish
      else .accepted .finish := by
  simp only [decodeWord, reservedOp_iff, ne_eq, rsvField_eq_iff, dataField_eq_iff, opField_eq_iff]
  rfl

/-- What the mode adds to decoding: a command that needs a message is refused in IDLE (R66). -/
def Decoded.inMode (m : Mode) : Decoded → Decoded
  | .refused r => .refused r
  | .accepted i => if i.needsMessage = true ∧ m = .idle then .refused .noMessage else .accepted i

theorem decode_eq_inMode (w : Word) (m : Mode) : decode w m = (decodeWord w).inMode m := rfl

@[simp] theorem inMode_refused (m : Mode) (r : RefuseReason) : (Decoded.refused r).inMode m = .refused r := rfl

@[simp] theorem inMode_accepted (m : Mode) (i : Instr) :
    (Decoded.accepted i).inMode m
      = if i.needsMessage = true ∧ m = .idle then .refused .noMessage else .accepted i := rfl

/-- Settles O7: the decoder's tests are R66's on numbers, and the mode's part is asked line by line. -/
theorem decodeFollowsTheLinesInOrder : Obligations.DecodeFollowsTheLinesInOrder := by
  refine ⟨fun _ _ => rfl, fun w m => ?_⟩
  rw [decode_eq_inMode, decodeWord_eq, decodeStart_eq, dataField_toNat, dataField_eq_ofNat]
  simp only [apply_ite (Decoded.inMode m), inMode_refused, inMode_accepted, Instr.needsMessage,
    Bool.false_eq_true, false_and, true_and, if_false]

/-- Settles O10, by evaluating the decoder on each word. -/
theorem sampleWordsDecode : Obligations.SampleWordsDecode := by
  unfold Obligations.SampleWordsDecode
  decide

end Sys2Proof
end

section
/-! O4 and O46: a step without a command, and an edge of the handshake (spec/30_encoding.md R56,
spec/70_reset_and_hazards.md R150). -/

namespace Sys2Proof.Machine

/-- Settles O4: the step takes the event, and the effect of an idle edge or of a reset is known. -/
theorem stepWithoutCommand : Obligations.StepWithoutCommand := by
  refine ⟨fun _ => step_of_no_input, fun s rest h => ?_, fun s rest h => ?_⟩
  · rw [step_of_input h, eventEffect_idle]
    rfl
  · rw [step_of_input h, eventEffect_reset]
    rfl

theorem shellStep_edge (p : Config.OpenParams) {pins : Pins} (h : Shell)
    (hrst : resetAsserted p.resetStyle pins.rst = false) : shellStep p (.edge pins) h = clockEdge p pins h := by
  simp [shellStep, hrst]

/-- An accepted command is counted, whatever its CMD_LATENCY (R158). -/
theorem acceptAtEdge_accepted (p : Config.OpenParams) (w : Word) (h : Shell) :
    (acceptAtEdge p w h).accepted = h.accepted + 1 := by
  unfold acceptAtEdge
  cases p.cmdLatency h.accepted <;> rfl

/-- A ready block accepts when `cmd_valid` = 1 and else stays as it is (R56). -/
theorem clockEdge_of_ready (p : Config.OpenParams) (pins : Pins) {h : Shell} (hready : cmdReady h = true) :
    clockEdge p pins h = if pins.cmdValid then acceptAtEdge p pins.cmd h else h := by
  have hnone : h.inFlight = none := Option.isNone_iff_eq_none.1 hready
  simp only [clockEdge, hnone]

/-- A busy block accepts nothing (R56). -/
theorem clockEdge_accepted_of_busy (p : Config.OpenParams) (pins : Pins) {h : Shell} (hbusy : cmdReady h = false) :
    (clockEdge p pins h).accepted = h.accepted := by
  obtain ⟨f, hf⟩ := Option.isSome_iff_exists.1 (Option.isNone_eq_false_iff.1 hbusy)
  simp only [clockEdge, hf]
  cases f.remaining <;> rfl

/-- Settles O46: by whether the block is ready, and then by `cmd_valid`. -/
theorem handshakeAcceptsOnValidAndReady : Obligations.HandshakeAcceptsOnValidAndReady := by
  intro p pins h hrst
  rw [shellStep_edge p h hrst]
  cases hready : cmdReady h with
  | false => simp [clockEdge_accepted_of_busy p pins hready]
  | true => cases hv : pins.cmdValid <;> simp [clockEdge_of_ready p pins hready, hv, acceptAtEdge_accepted]

end Sys2Proof.Machine
end

section
/-! SUPPORT. What a finished message's RESULT is: the sums of all its units, the flushed lead's included, make the Adler-32
(spec/40_core_engine.md R86, R87, spec/42_text_feed.md R119). -/

namespace Sys2Proof.Machine

/-- The end of a partial block keeps the residues of both sums (R83, R90). -/
theorem endPartialBlock_mod (s : State) :
    (sumsOf (endPartialBlock s)).a.toNat % 65521 = s.a.toNat % 65521 ∧
    (sumsOf (endPartialBlock s)).b.toNat % 65521 = s.b.toNat % 65521 := by
  rw [sumsOf_endPartialBlock]
  split
  · exact ⟨rfl, rfl⟩
  · exact ⟨fold_mod s.a, fold_mod s.b⟩

/-- FINAL of the sums of a unit sequence is its Adler-32 (R86, R87). -/
theorem checksumOf_eq_adler32 {vs : List Byte} {a b : Word} (ha : a.toNat % 65521 = unitSum vs % 65521)
    (hb : b.toNat % 65521 = unitSumOfSums vs % 65521) : checksumOf a b = adler32 vs := by
  apply BitVec.eq_of_toNat_eq
  rw [checksumOf_toNat, ha, hb, adler32, BitVec.toNat_ofNat]
  omega

/-- The bytes that FINISH's flush adds: those of the lead with the trail 0x0000, where a lead is pending (R119). -/
def flushUnits (s : State) : List Byte := if s.pend then fourBytes (pairCodePoint s.lead 0#16) else []

theorem sumsOf_flushIfPending_eq_accAllSums (s : State) :
    sumsOf (flushIfPending s) = accAllSums (flushUnits s) (sumsOf s) := by
  rw [sumsOf_flushIfPending, flushUnits]
  split <;> rfl

theorem flushUnits_of_not_pend {s : State} (h : s.pend = false) : flushUnits s = [] := by
  simp [flushUnits, h]

/-- The units of a TEXT message are those its FEEDs emit with those of the flush; the induction takes a lead with its
trail. -/
theorem textUnits_eq_emitted_append_flush (us : List Elem) {s : State} (hm : s.mode = .text) (hp : s.pend = false) :
    textUnits us = textEmitted us ++ flushUnits (feedAll us s) := by
  induction us using textEmitted.induct generalizing s with
  | case1 => exact (flushUnits_of_not_pend hp).symm
  | case2 u hu => simp [textUnits, textEmitted, hu, flushUnits, feedEffect_pend, feedEffect_lead, hm, hp]
  | case3 u hu =>
    rw [Bool.not_eq_true] at hu
    simp [textUnits, textEmitted, hu, flushUnits, feedEffect_pend, hm, hp]
  | case4 u t rest hu ih =>
    have hrest := ih (s := feedEffect t (feedEffect u s)) (by simp [hm]) (by simp [feedEffect_pend, hm, hp, hu])
    simp only [textUnits, textEmitted, hu, if_true, feedAll_cons, hrest, List.append_assoc]
  | case5 u t rest hu ih =>
    rw [Bool.not_eq_true] at hu
    have hrest := ih (s := feedEffect u s) (by simp [hm]) (by simp [feedEffect_pend, hm, hp, hu])
    rw [textUnits, textEmitted, hu, hrest, ← List.append_assoc]
    rfl

/-- Outside TEXT the FEEDs leave PEND alone (R37). -/
theorem feedAll_pend_of_not_text (ds : List Elem) {s : State} (hm : s.mode ≠ .text) :
    (feedAll ds s).pend = s.pend := by
  induction ds generalizing s with
  | nil => rfl
  | cons d ds ih => rw [feedAll_cons, ih (by simpa using hm), feedEffect_pend, if_neg hm]

/-- The units of a message are those its FEEDs accumulate with those of the flush, which outside TEXT are none. -/
theorem messageUnits_eq_emitted_append_flush (ds : List Elem) {s : State} (hp : s.pend = false) :
    messageUnits s.mode ds = emittedUnits s.mode ds ++ flushUnits (feedAll ds s) := by
  have hbytes : s.mode ≠ .text → flushUnits (feedAll ds s) = [] := fun hm =>
    flushUnits_of_not_pend ((feedAll_pend_of_not_text ds hm).trans hp)
  cases hm : s.mode with
  | text => exact textUnits_eq_emitted_append_flush ds hm hp
  | _ => simp [messageUnits, emittedUnits, hbytes (by simp [hm])]

/-- The FINISH of a message: RESULT is the Adler-32 of the message's units (R87). -/
theorem finishMessage_result_eq_adler32 {m : Mode} (hm : m.opens = true) (ds : List Elem) (s : State) :
    (finishMessage (feedAll ds (startMessage m s))).result = adler32 (messageUnits m ds) := by
  have hflush : sumsOf (flushIfPending (feedAll ds (startMessage m s)))
      = accAllSums (messageUnits m ds) (sumsOf (startMessage m s)) := by
    rw [sumsOf_flushIfPending_eq_accAllSums, sumsOf_feedAll ds (startMessage_open hm s) rfl,
      ← accAllSums_append, ← messageUnits_eq_emitted_append_flush ds rfl, startMessage_mode]
  have hunits := (sumsOfUnits_start m s).append (messageUnits m ds)
  rw [← hflush] at hunits
  obtain ⟨ha, hb⟩ := endPartialBlock_mod (flushIfPending (feedAll ds (startMessage m s)))
  rw [finishMessage_result_of_sums]
  exact checksumOf_eq_adler32 (ha.trans hunits.a_mod) (hb.trans hunits.b_mod)

end Sys2Proof.Machine
end

section
/-! O50 and O51: the assembler's lines and the pseudo-commands (spec/30_encoding.md R68, R69). -/

namespace Sys2Proof.Machine

/-- A head with DATA 0 and an operand make the word of their sum: no bit of one meets a bit of the other (R57, R67). -/
theorem head_or_eq_ofNat {hd : Word} (hhd : dataField hd = 0#16) (d : Elem) :
    hd ||| d.setWidth 32 = BitVec.ofNat 32 (hd.toNat + d.toNat) := by
  have hop := opField_or hd d
  have hrsv := rsvField_or hd d
  have hdata := dataField_head_or hhd d
  rw [opField_eq_iff, opField_toNat] at hop
  rw [rsvField_eq_iff, rsvField_toNat] at hrsv
  rw [dataField_eq_iff] at hdata hhd
  apply BitVec.eq_of_toNat_eq
  rw [BitVec.toNat_ofNat]
  simp only [BitVec.toNat_ofNat] at hhd
  omega

theorem encode_nop_ofNat {v : Nat} (h : v ≤ 65535) : encode (.nop (BitVec.ofNat 16 v)) = BitVec.ofNat 32 v := by
  rw [encode, head_or_eq_ofNat (by decide), BitVec.toNat_ofNat, BitVec.toNat_ofNat, Nat.mod_eq_of_lt (a := v) (by omega),
    Nat.zero_mod, Nat.zero_add]

theorem encode_feed_ofNat {v : Nat} (h : v ≤ 65535) :
    encode (.feed (BitVec.ofNat 16 v)) = BitVec.ofNat 32 (0x20000000 + v) := by
  rw [encode, head_or_eq_ofNat (by decide), BitVec.toNat_ofNat, BitVec.toNat_ofNat, Nat.mod_eq_of_lt (a := v) (by omega)]

/-! The words of each kind of line. -/

theorem lineWords_nop (m : Mode) (v : Nat) :
    lineWords m (.nop v) = if immOk v then some [encode (.nop (BitVec.ofNat 16 v))] else none := rfl

theorem lineWords_start (m k : Mode) : lineWords m (.start k) = if k.opens then some [startWord k] else none := rfl

theorem lineWords_finish (m : Mode) : lineWords m .finish = some [encode .finish] := rfl

theorem lineWords_feed (m : Mode) (v : Nat) :
    lineWords m (.feed v) = if immOk v then some (feedWords [v]) else none := rfl

theorem lineWords_feeds (m : Mode) (vs : List Nat) :
    lineWords m (.feeds vs) = if vs.all immOk then some (feedWords vs) else none := rfl

theorem lineWords_checksum (m k : Mode) (vs : List Nat) :
    lineWords m (.checksum k vs)
      = if k.opens && vs.all immOk then some (startWord k :: (feedWords vs ++ [encode .finish])) else none := rfl

theorem lineWords_feedStr (m : Mode) (s : List Char) :
    lineWords m (.feedStr s) = (strElems m s).map (List.map fun d => encode (.feed d)) := rfl

/-- Settles O50: the line is well formed for an operand in range alone, and its word is the command's. -/
theorem assemblerChecksImmediates : Obligations.AssemblerChecksImmediates := by
  intro m v
  rw [lineWords_feed, lineWords_nop]
  by_cases hv : v ≤ 65535
  · simp [immOk, hv, feedWords, encode_nop_ofNat hv, encode_feed_ofNat hv]
  · simp [immOk, hv]

/-! The words of FEEDS and FEEDSTR. -/

theorem lineWords_feeds_of_ok {vs : List Nat} (h : vs.all immOk = true) (m : Mode) :
    lineWords m (.feeds vs) = some (feedWords vs) := by
  rw [lineWords_feeds, if_pos h]

theorem lineWords_feeds_error {vs : List Nat} (h : vs.all immOk = false) (m : Mode) :
    lineWords m (.feeds vs) = none := by
  simp [lineWords_feeds, h]

/-- FEEDS of a list of elements is one FEED for each (R69). -/
theorem lineWords_feeds_elems (m : Mode) (ds : List Elem) :
    lineWords m (.feeds (ds.map BitVec.toNat)) = some (ds.map fun d => encode (.feed d)) := by
  have himm : (ds.map BitVec.toNat).all immOk = true := by
    simp only [List.all_map, List.all_eq_true, Function.comp_apply, immOk, decide_eq_true_eq]
    intro d _
    have := d.isLt
    omega
  rw [lineWords_feeds_of_ok himm]
  simp [feedWords]

/-- FEEDSTR of a string that has elements in the mode is the FEEDS of them (R69). -/
theorem lineWords_feedStr_of_strElems {m : Mode} {s : List Char} {ds : List Elem} (h : strElems m s = some ds) :
    lineWords m (.feedStr s) = lineWords m (.feeds (ds.map BitVec.toNat)) := by
  rw [lineWords_feedStr, h, lineWords_feeds_elems]
  rfl

/-- In BYTES and BSTR modes a string has elements when it is ASCII (R69). -/
theorem strElems_bytes {m : Mode} (hm : m = .bytes ∨ m = .bstr) (s : List Char) :
    strElems m s
      = if ∀ c ∈ s, c.toNat < 128 then some (s.map fun c => BitVec.ofNat 16 c.toNat) else none := by
  rcases hm with rfl | rfl <;> simp [strElems]

theorem map_toNat_of_ascii {s : List Char} (h : ∀ c ∈ s, c.toNat < 128) :
    (s.map fun c => BitVec.ofNat 16 c.toNat).map BitVec.toNat = s.map Char.toNat := by
  rw [List.map_map]
  refine List.map_congr_left fun c hc => ?_
  have := h c hc
  rw [Function.comp_apply, BitVec.toNat_ofNat]
  omega

/-! `assemble` from a list of words already formed: a line adds its words, or is an error. -/

/-- The program whose first words are `ws` and whose later lines are `ls`. -/
def assembleAfter (m : Mode) (ws : List Word) (ls : List AsmLine) : Option (List Word) :=
  (assemble (ws.foldl modeAfterWord m) ls).map (ws ++ ·)

theorem assembleAfter_no_words (m : Mode) (ls : List AsmLine) : assembleAfter m [] ls = assemble m ls := by
  simp [assembleAfter]

theorem assembleAfter_no_lines (m : Mode) (ws : List Word) : assembleAfter m ws [] = some ws := by
  simp [assembleAfter, assemble]

theorem assemble_of_words {m : Mode} {l : AsmLine} {ws : List Word} (h : lineWords m l = some ws) (ls : List AsmLine) :
    assemble m (l :: ls) = assembleAfter m ws ls := by
  simp only [assemble, h]
  rfl

theorem assemble_of_error {m : Mode} {l : AsmLine} (h : lineWords m l = none) (ls : List AsmLine) :
    assemble m (l :: ls) = none := by
  simp only [assemble, h]

theorem assemble_congr {m : Mode} {l l' : AsmLine} (h : lineWords m l = lineWords m l') (ls : List AsmLine) :
    assemble m (l :: ls) = assemble m (l' :: ls) := by
  simp only [assemble, h]

theorem assembleAfter_of_words {l : AsmLine} {vs : List Word} (h : ∀ k, lineWords k l = some vs) (m : Mode)
    (ws : List Word) (ls : List AsmLine) : assembleAfter m ws (l :: ls) = assembleAfter m (ws ++ vs) ls := by
  simp [assembleAfter, assemble_of_words (h _), Function.comp_def]

theorem assembleAfter_of_error {l : AsmLine} (h : ∀ k, lineWords k l = none) (m : Mode) (ws : List Word)
    (ls : List AsmLine) : assembleAfter m ws (l :: ls) = none := by
  simp [assembleAfter, assemble_of_error (h _)]

/-! The pseudo-commands. -/

/-- CHECKSUM is START, FEEDS, FINISH: all of them are lines, or one of them is an error on both sides (R69). -/
theorem assemble_checksum (m k : Mode) (vs : List Nat) (ls : List AsmLine) :
    assemble m (.checksum k vs :: ls) = assemble m (.start k :: .feeds vs :: .finish :: ls) := by
  have hwords := lineWords_checksum m k vs
  have hstart := lineWords_start m k
  cases hk : k.opens with
  | false =>
    simp only [hk] at hwords hstart
    rw [assemble_of_error hwords, assemble_of_error hstart]
  | true =>
    simp only [hk] at hwords hstart
    rw [assemble_of_words hstart]
    cases hvs : vs.all immOk with
    | false =>
      simp only [hvs] at hwords
      rw [assemble_of_error hwords, assembleAfter_of_error (lineWords_feeds_error hvs)]
    | true =>
      simp only [hvs] at hwords
      rw [assemble_of_words hwords, assembleAfter_of_words (lineWords_feeds_of_ok hvs),
        assembleAfter_of_words lineWords_finish]
      rfl

theorem assemble_feeds_cons (m : Mode) (v : Nat) (vs : List Nat) (ls : List AsmLine) :
    assemble m (.feeds (v :: vs) :: ls) = assemble m (.feed v :: .feeds vs :: ls) := by
  have hfeed := lineWords_feed m v
  cases hv : immOk v with
  | false =>
    simp only [hv] at hfeed
    rw [assemble_of_error (lineWords_feeds_error (by simp [hv]) m), assemble_of_error hfeed]
  | true =>
    simp only [hv] at hfeed
    rw [assemble_of_words hfeed]
    cases hvs : vs.all immOk with
    | false =>
      rw [assemble_of_error (lineWords_feeds_error (by simp [hvs]) m),
        assembleAfter_of_error (lineWords_feeds_error hvs)]
    | true =>
      rw [assemble_of_words (lineWords_feeds_of_ok (by simp [hv, hvs]) m),
        assembleAfter_of_words (lineWords_feeds_of_ok hvs)]
      rfl

theorem assemble_feeds_nil (m : Mode) (ls : List AsmLine) : assemble m (.feeds [] :: ls) = assemble m ls :=
  (assemble_of_words rfl ls).trans (assembleAfter_no_words m ls)

/-- A CHECKSUM alone assembles when its mode opens and its operands are in range, and then to its own words (R69). -/
theorem assemble_checksum_alone (m k : Mode) (vs : List Nat) :
    assemble m [.checksum k vs]
      = if k.opens && vs.all immOk then some (startWord k :: (feedWords vs ++ [encode .finish])) else none := by
  cases h : k.opens && vs.all immOk with
  | false => rw [assemble_of_error (by rw [lineWords_checksum, h]; rfl)]; rfl
  | true => rw [assemble_of_words (by rw [lineWords_checksum, h]; rfl), assembleAfter_no_lines]; rfl

theorem feedWords_of_le {vs : List Nat} (h : ∀ v ∈ vs, v ≤ 65535) :
    feedWords vs = vs.map (fun v => BitVec.ofNat 32 (0x20000000 + v)) :=
  List.map_congr_left fun v hv => encode_feed_ofNat (h v hv)

/-! Running a CHECKSUM's expansion. -/

/-- The expansion's words are the message's events (R69, R154). -/
theorem command_checksum_words (k : Mode) (vs : List Nat) :
    (startWord k :: (feedWords vs ++ [encode .finish])).map HostEvent.command
      = messageEvents k (feedEvents (vs.map (BitVec.ofNat 16))) := by
  simp [messageEvents, feedEvents, feedWords, Function.comp_def]

theorem isBodyEvent_feedEvents (ds : List Elem) : ∀ e ∈ feedEvents ds, isBodyEvent e = true := by
  intro e he
  obtain ⟨d, -, rfl⟩ := List.mem_map.1 he
  simp only [isBodyEvent, decodeWord_encode]

theorem fedData_feedEvents (ds : List Elem) : fedData (feedEvents ds) = ds := by
  have hfed : ∀ d, feedDatum (.command (encode (.feed d))) = some d := by
    intro d
    simp only [feedDatum, decodeWord_encode]
  simp [fedData, feedEvents, hfed, List.filterMap_map]

/-- A message of FEEDs alone: RESULT is the Adler-32 of its units (R87). -/
theorem runEvents_feedEvents_result {k : Mode} (hk : k.opens = true) (ds : List Elem) (s : State) :
    ∃ t, runEvents (messageEvents k (feedEvents ds)) s = .next t ∧ t.result = adler32 (messageUnits k ds) := by
  refine ⟨_, runEvents_messageEvents hk (isBodyEvent_feedEvents ds) s, ?_⟩
  rw [fedData_feedEvents, finishMessage_result_eq_adler32 hk]

/-- Settles O51: the assembler's part clause by clause; the expansion of a CHECKSUM is a message of FEEDs. -/
theorem pseudoCommandsExpand : Obligations.PseudoCommandsExpand := by
  refine ⟨assemble_checksum, assemble_feeds_cons, assemble_feeds_nil, ?_, ?_, ?_, ?_, ?_⟩
  · intro m k vs hk hvs
    rw [assemble_checksum_alone, if_pos (by simpa [hk, immOk] using hvs), feedWords_of_le hvs]
    rfl
  · intro m s ls hm
    split
    · next hascii =>
      rw [← map_toNat_of_ascii hascii]
      exact assemble_congr (lineWords_feedStr_of_strElems (by rw [strElems_bytes hm, if_pos hascii])) ls
    · next hascii =>
      exact assemble_of_error (by rw [lineWords_feedStr, strElems_bytes hm, if_neg hascii]; rfl) ls
  · intro s ls
    exact assemble_congr (lineWords_feedStr_of_strElems rfl) ls
  · intro s ls
    exact assemble_of_error rfl ls
  · intro k vs ws s h
    rw [assemble_checksum_alone] at h
    split at h
    · next hok =>
      obtain rfl := Option.some.inj h
      rw [command_checksum_words]
      exact runEvents_feedEvents_result (Bool.and_eq_true_iff.1 hok).1 _ s
    · cases h

end Sys2Proof.Machine
end

section
/-! O33 and O34: R85's bounds are kept by every step, and within them no `ACC` wraps
(spec/40_core_engine.md R85, R91). -/

namespace Sys2Proof.Machine

/-- The bounds grow with the number of units. -/
theorem AccBounds.mono {k l : Nat} {a b : Word} (h : AccBounds k a b) (hkl : k ≤ l) : AccBounds l a b := by
  obtain ⟨ha, hb⟩ := h
  exact ⟨ha.trans (by gcongr), hb.trans (by gcongr)⟩

theorem SumsBounded.accAllSums {x : Sums} (h : SumsBounded x) (vs : List Byte) : SumsBounded (accAllSums vs x) := by
  induction vs generalizing x with
  | nil => exact h
  | cons v vs ih => exact ih (h.accSums v)

/-- `A` = 1, `B` = 0 and `CNT` = 0 are within the bounds (R89). -/
theorem bounded_startMessage (m : Mode) (s : State) : Bounded (startMessage m s) := (sumsOfUnits_start m s).bounded

theorem Bounded.feedEffect {s : State} (h : Bounded s) (d : Elem) : Bounded (feedEffect d s) := by
  rw [bounded_iff_sumsBounded, sumsOf_feedEffect]
  exact SumsBounded.accAllSums (x := sumsOf s) h _

theorem Bounded.flushIfPending {s : State} (h : Bounded s) : Bounded (flushIfPending s) := by
  rw [bounded_iff_sumsBounded, sumsOf_flushIfPending_eq_accAllSums]
  exact SumsBounded.accAllSums (x := sumsOf s) h _

/-- The end of a partial block folds the sums into the bounds of a block's start, as the end of a whole block does. -/
theorem Bounded.endPartialBlock {s : State} (h : Bounded s) : Bounded (endPartialBlock s) := by
  obtain ⟨hcnt, hacc⟩ := h
  rw [bounded_iff_sumsBounded, sumsOf_endPartialBlock]
  split
  · exact ⟨hcnt, hacc⟩
  · exact ⟨by simp, (hacc.mono (Nat.le_succ_of_le hcnt)).fold⟩

/-- Forming RESULT and closing the message leave the sums alone. -/
theorem Bounded.finishMessage {s : State} (h : Bounded s) : Bounded (finishMessage s) :=
  h.flushIfPending.endPartialBlock

theorem Bounded.finishEffect {s : State} (h : Bounded s) : Bounded (finishEffect s) := by
  by_cases hm : s.mode = .idle
  · rw [finishEffect_idle s hm]
    exact h
  · rw [finishEffect_open s hm]
    exact h.finishMessage

/-- Every command keeps R85's bounds. -/
theorem Bounded.effect {s : State} (h : Bounded s) (i : Instr) : Bounded (effect i s) := by
  cases i with
  | nop n => exact h
  | startBytes => exact bounded_startMessage .bytes s
  | startBstr => exact bounded_startMessage .bstr s
  | startText => exact bounded_startMessage .text s
  | feed d => exact h.feedEffect d
  | finish => exact h.finishEffect

/-- Settles O33: of the five things a step can do, a reset and a command alone write the sums, and both keep
the bounds. -/
theorem everyStepKeepsBounded : Obligations.EveryStepKeepsBounded := by
  intro s t hs h
  generalize hin : s.input = es
  apply step_elim (P := fun _ t => Bounded t) h hin
  case nil => exact hs
  case idle => exact fun _ => hs
  case reset => exact fun _ => invariantsHoldAtReset.2
  case refused => exact fun _ _ _ _ => hs
  case accepted => exact fun _ _ i _ => hs.effect i

/-- Settles O34: `AccBounds.add_unit` makes the exact sums those of the registers, and the bounds for 3850 units are the
two numbers. -/
theorem accumulationNeverWraps : Obligations.AccumulationNeverWraps := by
  intro s v h
  have hacc : Bounded (acc v s) := by
    rw [bounded_iff_sumsBounded, sumsOf_acc]
    exact SumsBounded.accSums (x := sumsOf s) h v
  obtain ⟨hcnt, hbounds⟩ := h
  obtain ⟨hA, hB, hnext⟩ := hbounds.add_unit hcnt v
  obtain ⟨hA_le, hB_le⟩ := hnext.mono (Nat.succ_le_succ hcnt)
  rw [hA] at hA_le
  rw [hB] at hB_le
  exact ⟨hA_le, hB_le, hnext, hacc⟩

end Sys2Proof.Machine
end

section
/-! O15, O35 and O36: the engine's operations on numbers (spec/40_core_engine.md R80 to R86). -/

namespace Sys2Proof.Machine

theorem fold_eq_ofNat (x : Word) : fold x = BitVec.ofNat 32 (15 * (x.toNat / 65536) + x.toNat % 65536) := by
  rw [← fold_toNat, BitVec.ofNat_toNat, BitVec.setWidth_eq]

/-- Settles O15: the two cases of `ACC` with CNT in its range, the registers read as numbers mod 2^32. -/
theorem accumulateUnit : Obligations.AccumulateUnit := by
  intro v s hcnt
  have hA : (s.a + v.setWidth 32).toNat = (s.a.toNat + v.toNat) % 2 ^ 32 := by
    rw [BitVec.toNat_add, BitVec.toNat_setWidth_of_le (by decide)]
  simp only [← hA, ← BitVec.toNat_add, ← fold_eq_ofNat, BitVec.ofNat_toNat, BitVec.setWidth_eq]
  rw [acc_eq_withSums]
  rcases accSums_cases v (x := sumsOf s) hcnt with ⟨hlast, heq⟩ | ⟨hlt, hsucc, heq⟩
  · rw [sumsOf_cnt] at hlast
    rw [heq, if_pos (by omega)]
    rfl
  · rw [sumsOf_cnt] at hlt hsucc
    rw [heq, if_neg (by omega), ← hsucc, BitVec.ofNat_toNat, BitVec.setWidth_eq]
    rfl

/-- Settles O35: the fold as a number says its bound, and `fold_mod` its residue. -/
theorem foldKeepsResidue : Obligations.FoldKeepsResidue := by
  refine ⟨fun x => ⟨fold_toNat x, ?_, fold_mod x⟩, by decide, by decide, by decide⟩
  have := x.isLt
  rw [fold_toNat]
  omega

/-- Settles O36: the word is a function of the two residues, which the fold keeps. -/
theorem finalWordIsTheResidues : Obligations.FinalWordIsTheResidues := by
  refine fun a b => ⟨checksumOf_toNat a b, BitVec.eq_of_toNat_eq ?_⟩
  rw [checksumOf_toNat, checksumOf_toNat, fold_mod, fold_mod]

end Sys2Proof.Machine
end

section
/-! O20 and O22: FINISH with a message open (spec/40_core_engine.md R86, R90). -/

namespace Sys2Proof.Machine

/-- FINISH is `finishMessage` where a message is open (R90). -/
theorem exec_finish_open {s : State} (hm : s.mode ≠ .idle) : exec .finish s = .next (finishMessage s) :=
  congrArg _ (finishEffect_open s hm)

theorem checksumOf_eq_ofNat (a b : Word) :
    checksumOf a b = BitVec.ofNat 32 (b.toNat % 65521 * 65536 + a.toNat % 65521) := by
  rw [← checksumOf_toNat, BitVec.ofNat_toNat, BitVec.setWidth_eq]

/-- FINISH with no lead pending writes the sums after the last partial block, and RESULT, DONE and MODE. -/
theorem finishMessage_of_not_pend {s : State} (hp : s.pend = false) :
    finishMessage s = closeMessage (final (endPartialBlock s)) := by
  simp [finishMessage, flushIfPending, hp]

/-- Settles O20: by whether a partial block is left to fold. -/
theorem finishFormsResult : Obligations.FinishFormsResult := by
  intro s hm hp
  rw [exec_finish_open hm, finishMessage_of_not_pend hp, endPartialBlock_eq]
  by_cases hcnt : s.cnt = 0#12
  · simp only [if_pos hcnt, ← checksumOf_eq_ofNat, BitVec.ofNat_toNat, BitVec.setWidth_eq]
    rw [← hcnt]
    rfl
  · simp only [if_neg hcnt, ← fold_toNat, ← checksumOf_eq_ofNat, BitVec.ofNat_toNat, BitVec.setWidth_eq]
    rfl

/-- Settles O22: field by field from what FINISH does with a message open. -/
theorem finishClosesEveryOpenMessage : Obligations.FinishClosesEveryOpenMessage := by
  intro s hm
  refine ⟨finishMessage s, exec_finish_open hm, finishMessage_mode s, finishMessage_done s, finishMessage_pend s,
    finishMessage_cnt s, finishMessage_inv s, finishMessage_lead s, finishMessage_ill s, finishMessage_input s, ?_⟩
  rw [finishMessage_result, checksumOf_toNat]

end Sys2Proof.Machine
end

section
/-! O37: a message's RESULT is the Adler-32 of its units, and its INV says whether it broke the contract
(spec/40_core_engine.md R87, spec/60_exceptions.md R134, spec/42_text_feed.md R118). -/

namespace Sys2Proof.Machine

@[simp] theorem feedAll_input (ds : List Elem) (s : State) : (feedAll ds s).input = s.input :=
  feedAll_keeps feedEffect_input ds s

/-- With a message open no FEED is refused, so ILL stays (R29). -/
theorem feedAll_ill (ds : List Elem) {s : State} (hm : s.mode ≠ .idle) : (feedAll ds s).ill = s.ill := by
  induction ds generalizing s with
  | nil => rfl
  | cons d ds ih => rw [feedAll_cons, ih (by simpa using hm), feedEffect_ill d s hm]

/-- BYTES and BSTR set INV for an element outside 0..255 (R101, R102). -/
theorem feedAll_inv_bytes (ds : List Elem) {s : State} (hm : s.mode = .bytes ∨ s.mode = .bstr) :
    (feedAll ds s).inv = (s.inv || ds.any outsideByteRange) := by
  induction ds generalizing s with
  | nil => simp
  | cons d ds ih =>
    have hinv : (feedEffect d s).inv = (s.inv || outsideByteRange d) := by
      rcases hm with hm | hm <;> simp [feedEffect_inv, hm]
    rw [feedAll_cons, ih (by simpa using hm), hinv, List.any_cons, Bool.or_assoc]

/-- TEXT's violations are those of R118: INV of the FEEDs, or a lead left pending; the induction takes a lead with its
trail. -/
theorem feedAll_inv_or_pend_text (us : List Elem) {s : State} (hm : s.mode = .text) (hp : s.pend = false) :
    ((feedAll us s).inv || (feedAll us s).pend) = (s.inv || textViolation us) := by
  induction us using textViolation.induct generalizing s with
  | case1 => simp [textViolation, hp]
  | case2 u =>
    cases hu : isSurrogate u with
    | false => simp [textViolation, feedEffect_inv, feedEffect_pend, hm, hp, hu, isLowSurrogate_of_not_isSurrogate hu]
    | true => simp [textViolation, feedEffect_pend, hm, hp, hu]
  | case3 u t rest hu ih =>
    have hrest := ih (s := feedEffect t (feedEffect u s)) (by simp [hm]) (by simp [feedEffect_pend, hm, hp, hu])
    simp [textViolation, hrest, feedEffect_inv, feedEffect_pend, hm, hp, hu, Bool.or_assoc]
  | case4 u t rest hu ih =>
    rw [Bool.not_eq_true] at hu
    have hrest := ih (s := feedEffect u s) (by simp [hm]) (by simp [feedEffect_pend, hm, hp, hu])
    rw [feedAll_cons, hrest]
    simp [textViolation, feedEffect_inv, hm, hp, hu, isLowSurrogate_of_not_isSurrogate hu]

/-- The violations of every mode, with the message's FINISH to come. -/
theorem feedAll_inv_or_pend (ds : List Elem) {s : State} (hm : s.mode ≠ .idle) (hp : s.pend = false) :
    ((feedAll ds s).inv || (feedAll ds s).pend) = (s.inv || messageViolation s.mode ds) := by
  have hpend : s.mode ≠ .text → (feedAll ds s).pend = false := fun h => (feedAll_pend_of_not_text ds h).trans hp
  cases hmode : s.mode with
  | idle => exact absurd hmode hm
  | bytes => rw [hpend (by simp [hmode]), Bool.or_false, feedAll_inv_bytes ds (.inl hmode), messageViolation]
  | bstr => rw [hpend (by simp [hmode]), Bool.or_false, feedAll_inv_bytes ds (.inr hmode), messageViolation]
  | text => exact feedAll_inv_or_pend_text ds hmode hp

/-- INV of a finished message (R134). -/
theorem finishMessage_inv_eq_messageViolation {m : Mode} (hm : m.opens = true) (ds : List Elem) (s : State) :
    (finishMessage (feedAll ds (startMessage m s))).inv = messageViolation m ds := by
  rw [finishMessage_inv, feedAll_inv_or_pend ds (startMessage_open hm s) rfl, startMessage_inv, startMessage_mode,
    Bool.false_or]

theorem unitSum_cons (v : Byte) (vs : List Byte) : unitSum (v :: vs) = v.toNat + unitSum vs := by
  simp only [unitSum, List.map_cons, List.sum_cons]
  omega

/-- A unit put first is in every term of the sum of sums. -/
theorem unitSumOfSums_cons (v : Byte) (vs : List Byte) :
    unitSumOfSums (v :: vs) = 1 + (vs.length + 1) * v.toNat + unitSumOfSums vs := by
  have hempty : unitSum (vs.take 0) = 1 := rfl
  simp only [unitSumOfSums, List.length_cons, List.range_succ_eq_map, List.map_cons, List.map_map, List.sum_cons,
    Function.comp_def, List.take_succ_cons, unitSum_cons, List.sum_map_add, List.map_const', List.sum_replicate,
    List.length_range, smul_eq_mul, hempty, Nat.succ_eq_add_one]
  ring

theorem unitSumOfSums_eq_weightedUnitSum (vs : List Byte) : unitSumOfSums vs = weightedUnitSum vs := by
  induction vs with
  | nil => rfl
  | cons v vs ih => rw [unitSumOfSums_cons, ih, weightedUnitSum]

/-- Settles O37: the run is START, the FEEDs and FINISH, whose RESULT and INV are known. -/
theorem messageResultIsAdler32 : Obligations.MessageResultIsAdler32 := by
  refine ⟨fun m body s hm hbody => ?_, unitSumOfSums_eq_weightedUnitSum⟩
  refine ⟨_, runEvents_messageEvents hm hbody s, finishMessage_result_eq_adler32 hm _ s, finishMessage_done _,
    finishMessage_mode _, finishMessage_pend _, finishMessage_cnt _,
    finishMessage_inv_eq_messageViolation hm _ s, ?_, ?_⟩
  · rw [finishMessage_ill, feedAll_ill _ (startMessage_open hm s), startMessage_ill]
  · rw [finishMessage_input, feedAll_input, startMessage_input]

end Sys2Proof.Machine
end

section
/-! O11 and O12: NOP and the STARTs (spec/40_core_engine.md R88, R89, spec/30_encoding.md R59, R62, R66). -/

namespace Sys2Proof.Machine

/-- The reserved bits are asked for before the operation, in every mode (R66). -/
theorem decode_of_reservedBits {w : Word} (hop : ¬ 4#4 ≤ opField w) (hrsv : rsvField w ≠ 0#12) (m : Mode) :
    decode w m = .refused .reservedBits := by
  simp [decode, decodeWord, hop, hrsv]

/-- Settles O11: a NOP's word is the encoder's. -/
theorem nopChangesNothing : Obligations.NopChangesNothing := by
  refine ⟨fun _ _ => rfl, fun h m => ?_, fun w m hop hrsv => decode_of_reservedBits (by rw [hop]; decide) hrsv m⟩
  have hword : encode (.nop h) = BitVec.ofNat 32 h.toNat := by
    simpa using encode_nop_ofNat (Nat.le_of_lt_succ h.isLt)
  rw [← hword]
  exact decode_of_not_needsMessage m (decodeWord_encode (.nop h)) rfl

/-- No START needs a message, so the mode plays no part in decoding one (R66, R89). -/
theorem decode_of_startOp {w : Word} (hop : opField w = 1#4) (hrsv : rsvField w = 0#12) (m : Mode) :
    decode w m = decodeStart (dataField w) := by
  have hword : decodeWord w = decodeStart (dataField w) := by simp [decodeWord, hop, hrsv]
  cases hd : decodeStart (dataField w) with
  | refused r => simp [decode, hword, hd]
  | accepted i =>
    refine decode_of_not_needsMessage m (hword.trans hd) ?_
    rcases decodeStart_eq_accepted hd with ⟨-, rfl⟩ | ⟨-, rfl⟩ | ⟨-, rfl⟩ <;> rfl

theorem decodeStart_refused_iff (d : Elem) :
    (∃ r, decodeStart d = .refused r) ↔ d.toNat / 4 ≠ 0 ∨ d.toNat % 4 = 0 := by
  rw [decodeStart_eq]
  split
  next h => simp only [h, Decoded.refused.injEq, exists_eq']
  next h => split_ifs <;> simp only [h, exists_false]

/-- START's operand is refused by its two fields, MSEL and `DATA[15:2]` (R59). -/
theorem decodeStart_dataField_refused_iff (w : Word) :
    (∃ r, decodeStart (dataField w) = .refused r) ↔ w.extractLsb' 0 2 = 0#2 ∨ w.extractLsb' 2 14 ≠ 0#14 := by
  have hmsel : w.extractLsb' 0 2 = 0#2 ↔ (dataField w).toNat % 4 = 0 := by
    rw [dataField_toNat, ← BitVec.toNat_inj, BitVec.extractLsb'_toNat, Nat.shiftRight_eq_div_pow]
    simp only [BitVec.toNat_ofNat]
    omega
  have hhigh : w.extractLsb' 2 14 = 0#14 ↔ (dataField w).toNat / 4 = 0 := by
    rw [dataField_toNat, ← BitVec.toNat_inj, BitVec.extractLsb'_toNat, Nat.shiftRight_eq_div_pow]
    simp only [BitVec.toNat_ofNat]
    omega
  rw [decodeStart_refused_iff, hmsel, ne_eq, ne_eq, hhigh, or_comm]

/-- Settles O12: every START is `startMessage`, and a word with `OP` = 1 is refused for RSV or for its operand. -/
theorem startOpensFreshMessage : Obligations.StartOpensFreshMessage := by
  refine ⟨fun _ => ⟨rfl, rfl, rfl⟩, fun m => ⟨?_, ?_, ?_⟩, fun w m hop => ?_, _, rfl, by decide⟩
  · exact decode_of_not_needsMessage m (decodeWord_encode .startBytes) rfl
  · exact decode_of_not_needsMessage m (decodeWord_encode .startBstr) rfl
  · exact decode_of_not_needsMessage m (decodeWord_encode .startText) rfl
  by_cases hrsv : rsvField w = 0#12
  · rw [decode_of_startOp hop hrsv, decodeStart_dataField_refused_iff]
    simp [hrsv]
  · simp [decode_of_reservedBits (by rw [hop]; decide) hrsv m, hrsv]

end Sys2Proof.Machine
end

section
/-! O13 and O16: FEED by mode, and its word (spec/41_byte_feed.md R100 to R102). -/

namespace Sys2Proof.Machine

/-- Settles O13: FEED's dispatch, mode by mode. -/
theorem feedDispatchesOnMode : Obligations.FeedDispatchesOnMode := by
  intro d s
  have hfeed : exec (.feed d) s = .next (feedEffect d s) := rfl
  rw [hfeed]
  split
  · next hm => rw [feedEffect_idle d s hm]; rfl
  · next hm => rw [feedEffect_bytes d s hm]
  · next hm => rw [feedEffect_bstr d s hm]
  · next hm => rw [feedEffect_text d s hm]

/-- BSTR's FEED is that of BYTES (R102, R103). -/
theorem feedBstr_eq_feedBytes (d : Elem) (s : State) : feedBstr d s = feedBytes d s := rfl

/-- In BYTES and BSTR modes FEED is one function (R103). -/
theorem feedEffect_byteMode (d : Elem) {s : State} (hm : s.mode = .bytes ∨ s.mode = .bstr) :
    feedEffect d s = feedBytes d s := by
  rcases hm with hm | hm
  · exact feedEffect_bytes d s hm
  · rw [feedEffect_bstr d s hm, feedBstr_eq_feedBytes]

theorem byteOperand_eq_ofNat (d : Elem) : byteOperand d = BitVec.ofNat 8 (d.toNat % 256) := by
  apply BitVec.eq_of_toNat_eq
  simp [byteOperand]

theorem outsideByteRange_eq_div (d : Elem) : outsideByteRange d = decide (d.toNat / 256 ≠ 0) := by
  rw [outsideByteRange_eq_decide, decide_eq_decide]
  omega

/-- `ACC` neither reads nor writes INV, so the flag may be set after it (R37). -/
theorem feedBytes_eq_acc (d : Elem) (s : State) :
    feedBytes d s = { acc (byteOperand d) s with inv := s.inv || outsideByteRange d } := by
  rw [feedBytes_eq, acc_eq_withSums, withSums]

/-- FEED's word is accepted in every mode but IDLE (R64, R66). -/
theorem decode_feedWord (d : Elem) {m : Mode} (hm : m ≠ .idle) :
    decode (BitVec.ofNat 32 (0x20000000 + d.toNat)) m = .accepted (.feed d) := by
  have hword : encode (.feed d) = BitVec.ofNat 32 (0x20000000 + d.toNat) := head_or_eq_ofNat (by decide) d
  rw [← hword]
  exact decode_of_open (decodeWord_encode (.feed d)) hm

/-- With `OP` = 2 and RSV = 0 every DATA is FEED's operand (R60, R66). -/
theorem decodeWord_of_feedOp {w : Word} (hop : opField w = 2#4) (hrsv : rsvField w = 0#12) :
    decodeWord w = .accepted (.feed (dataField w)) := by
  simp [decodeWord, hop, hrsv]

theorem decode_feedOp_refused_iff {w : Word} (hop : opField w = 2#4) (m : Mode) :
    (∃ r, decode w m = .refused r) ↔ m = .idle ∨ rsvField w ≠ 0#12 := by
  by_cases hrsv : rsvField w = 0#12
  · by_cases hm : m = .idle
    · simp [decode, decodeWord_of_feedOp hop hrsv, Instr.needsMessage, hm]
    · simp [decode_of_open (decodeWord_of_feedOp hop hrsv) hm, hm, hrsv]
  · simp [decode_of_reservedBits (by rw [hop]; decide) hrsv m, hrsv]

/-- Settles O16: the one function of both modes with its operand and flag as numbers, and FEED's words. -/
theorem feedByteResult : Obligations.FeedByteResult := by
  refine ⟨fun d s hm => ?_, fun d m => decode_feedWord d, fun w m hop => decode_feedOp_refused_iff hop m⟩
  rw [← byteOperand_eq_ofNat, ← outsideByteRange_eq_div, ← feedBytes_eq_acc, ← feedEffect_byteMode d hm]
  rfl

end Sys2Proof.Machine
end

section
/-! O39: a BYTES and a BSTR message of the same data differ in MODE alone while open, and in nothing once finished
(spec/41_byte_feed.md R103). -/

namespace Sys2Proof.Machine

/-- The FEEDs of a BYTES message, given to the same state in BSTR mode, end in the same state but for MODE. -/
theorem feedAll_bstr_of_bytes (ds : List Elem) {s : State} (hm : s.mode = .bytes) :
    feedAll ds { s with mode := .bstr } = { feedAll ds s with mode := .bstr } := by
  induction ds generalizing s with
  | nil => rfl
  | cons d ds ih =>
    have hfeed : feedEffect d { s with mode := .bstr } = { feedEffect d s with mode := .bstr } := by
      rw [feedEffect_byteMode d (.inl hm), feedEffect_byteMode d (.inr rfl), feedBytes_eq, feedBytes_eq]
      rfl
    rw [feedAll_cons, feedAll_cons, hfeed, ih ((feedEffect_mode d s).trans hm)]

/-- The FINISH of an open message does not read MODE, and overwrites it (R90). -/
theorem finishMessage_setMode (m : Mode) (s : State) : finishMessage { s with mode := m } = finishMessage s := by
  have hflush : flushIfPending { s with mode := m } = { flushIfPending s with mode := m } := by
    cases hp : s.pend with
    | false => simp [flushIfPending, hp]
    | true =>
      simp only [flushIfPending, hp, if_true, flush_eq, emit4_eq]
      rfl
  rw [finishMessage, finishMessage, hflush, endPartialBlock_eq, endPartialBlock_eq]
  rfl

/-- START and the FEEDs of a data sequence (R154). -/
theorem runEvents_start_feedEvents {m : Mode} (hm : m.opens = true) (ds : List Elem) (s : State) :
    runEvents (.command (startWord m) :: feedEvents ds) s = .next (feedAll ds (startMessage m s)) := by
  rw [runEvents_eq, eventsEffect_cons, eventEffect_startWord hm,
    eventsEffect_body (isBodyEvent_feedEvents ds) (startMessage_open hm s), fedData_feedEvents]

/-- A whole message of FEEDs alone (R154). -/
theorem runEvents_messageEvents_feedEvents {m : Mode} (hm : m.opens = true) (ds : List Elem) (s : State) :
    runEvents (messageEvents m (feedEvents ds)) s = .next (finishMessage (feedAll ds (startMessage m s))) := by
  rw [runEvents_messageEvents hm (isBodyEvent_feedEvents ds), fedData_feedEvents]

/-- Settles O39: the STARTs' states differ in MODE alone, the FEEDs keep that, and FINISH overwrites MODE. -/
theorem bytesAndBstrAgree : Obligations.BytesAndBstrAgree := by
  intro ds s
  have hfed : feedAll ds (startMessage .bstr s) = { feedAll ds (startMessage .bytes s) with mode := .bstr } :=
    feedAll_bstr_of_bytes ds (s := startMessage .bytes s) rfl
  have hbstr := runEvents_start_feedEvents (m := .bstr) rfl ds s
  have hbstr_finished := runEvents_messageEvents_feedEvents (m := .bstr) rfl ds s
  rw [hfed] at hbstr
  rw [hfed, finishMessage_setMode] at hbstr_finished
  exact ⟨⟨_, runEvents_start_feedEvents rfl ds s, hbstr⟩,
    ⟨_, runEvents_messageEvents_feedEvents rfl ds s, hbstr_finished⟩⟩

end Sys2Proof.Machine
end

section
/-! SUPPORT. The encoder's bytes as numbers: as the spec writes them with masks, and as quotients and remainders
(spec/42_text_feed.md R110 to R117). -/

namespace Sys2Proof.Machine

/-! The classes of R111 and the pair's code point, as numbers. -/

theorem isOneByte_eq_decide (u : Elem) : isOneByte u = decide (u.toNat < 0x80) := by
  simp [isOneByte, BitVec.lt_def]

theorem isTwoByte_eq_decide (u : Elem) : isTwoByte u = decide (u.toNat < 0x800) := by
  simp [isTwoByte, BitVec.lt_def]

theorem plainBytes_eq (u : Elem) :
    plainBytes u = if u.toNat < 0x80 then oneByte u else if u.toNat < 0x800 then twoBytes u else threeBytes u := by
  simp [plainBytes, isOneByte_eq_decide, isTwoByte_eq_decide]

theorem and_lowTen (n : Nat) : n &&& 0x3FF = n % 1024 := Nat.and_two_pow_sub_one_eq_mod n 10

/-- No carry leaves the 21 bits of a code point (R117). -/
theorem pairCodePoint_toNat (lead : LeadBits) (t : Elem) :
    (pairCodePoint lead t).toNat = 0x10000 + (lead.toNat <<< 10) + (t.toNat &&& 0x3FF) := by
  have hlead := lead.isLt
  simp only [pairCodePoint, BitVec.toNat_add, BitVec.toNat_shiftLeft, BitVec.toNat_setWidth, BitVec.toNat_and,
    BitVec.toNat_ofNat, Nat.shiftLeft_eq, Nat.reducePow, Nat.reduceMod, and_lowTen]
  omega

theorem pairCodePoint_range (lead : LeadBits) (t : Elem) :
    0x10000 ≤ (pairCodePoint lead t).toNat ∧ (pairCodePoint lead t).toNat ≤ 0x10FFFF := by
  have hlead := lead.isLt
  rw [pairCodePoint_toNat, and_lowTen, Nat.shiftLeft_eq]
  omega

/-! The bytes with the spec's masks. -/

theorem oneByte_eq_ofNat (u : Elem) : oneByte u = [BitVec.ofNat 8 u.toNat] := by
  rw [oneByte, BitVec.ofNat_toNat]

theorem twoBytes_eq_ofNat (u : Elem) :
    twoBytes u = [BitVec.ofNat 8 (0xC0 ||| (u.toNat >>> 6)), BitVec.ofNat 8 (0x80 ||| (u.toNat &&& 0x3F))] := by
  simp [twoBytes, ← BitVec.ofNat_toNat, BitVec.ofNat_or]

theorem threeBytes_eq_ofNat (u : Elem) :
    threeBytes u = [BitVec.ofNat 8 (0xE0 ||| (u.toNat >>> 12)),
      BitVec.ofNat 8 (0x80 ||| ((u.toNat >>> 6) &&& 0x3F)), BitVec.ofNat 8 (0x80 ||| (u.toNat &&& 0x3F))] := by
  simp [threeBytes, ← BitVec.ofNat_toNat, BitVec.ofNat_or]

theorem fourBytes_eq_ofNat (cp : CodePoint) :
    fourBytes cp = [BitVec.ofNat 8 (0xF0 ||| (cp.toNat >>> 18)),
      BitVec.ofNat 8 (0x80 ||| ((cp.toNat >>> 12) &&& 0x3F)), BitVec.ofNat 8 (0x80 ||| ((cp.toNat >>> 6) &&& 0x3F)),
      BitVec.ofNat 8 (0x80 ||| (cp.toNat &&& 0x3F))] := by
  simp [fourBytes, ← BitVec.ofNat_toNat, BitVec.ofNat_or]

/-! The bytes by quotient and remainder, as Lean's own encoder writes them. -/

/-- The bits of a head and of a value below its lowest bit do not meet. -/
theorem head_or_eq_add {i n : Nat} (h : n < 2 ^ i) (a : Nat) : 2 ^ i * a ||| n = n % 2 ^ i + 2 ^ i * a := by
  rw [← Nat.two_pow_add_eq_or_of_lt h, Nat.mod_eq_of_lt h, Nat.add_comm]

theorem continuation_or_eq_add (n : Nat) : 0x80 ||| (n &&& 0x3F) = n % 64 + 128 := by
  have hlow : n &&& 0x3F = n % 64 := Nat.and_two_pow_sub_one_eq_mod n 6
  rw [hlow]
  simpa using head_or_eq_add (i := 6) (Nat.mod_lt n (by decide)) 2

theorem twoBytes_eq_div {u : Elem} (h : u.toNat < 0x800) :
    twoBytes u = [BitVec.ofNat 8 (u.toNat / 64 % 32 + 192), BitVec.ofNat 8 (u.toNat % 64 + 128)] := by
  have hhead : 0xC0 ||| (u.toNat >>> 6) = u.toNat / 64 % 32 + 192 := by
    rw [Nat.shiftRight_eq_div_pow]
    exact head_or_eq_add (i := 5) (by omega) 6
  rw [twoBytes_eq_ofNat, hhead, continuation_or_eq_add]

theorem threeBytes_eq_div (u : Elem) :
    threeBytes u = [BitVec.ofNat 8 (u.toNat / 4096 % 16 + 224), BitVec.ofNat 8 (u.toNat / 64 % 64 + 128),
      BitVec.ofNat 8 (u.toNat % 64 + 128)] := by
  have hu := u.isLt
  have hhead : 0xE0 ||| (u.toNat >>> 12) = u.toNat / 4096 % 16 + 224 := by
    rw [Nat.shiftRight_eq_div_pow]
    exact head_or_eq_add (i := 4) (by omega) 14
  rw [threeBytes_eq_ofNat, hhead, continuation_or_eq_add, continuation_or_eq_add, Nat.shiftRight_eq_div_pow]

theorem fourBytes_eq_div (cp : CodePoint) :
    fourBytes cp = [BitVec.ofNat 8 (cp.toNat / 262144 % 8 + 240), BitVec.ofNat 8 (cp.toNat / 4096 % 64 + 128),
      BitVec.ofNat 8 (cp.toNat / 64 % 64 + 128), BitVec.ofNat 8 (cp.toNat % 64 + 128)] := by
  have hcp := cp.isLt
  have hhead : 0xF0 ||| (cp.toNat >>> 18) = cp.toNat / 262144 % 8 + 240 := by
    rw [Nat.shiftRight_eq_div_pow]
    exact head_or_eq_add (i := 3) (by omega) 30
  rw [fourBytes_eq_ofNat, hhead, continuation_or_eq_add, continuation_or_eq_add, continuation_or_eq_add,
    Nat.shiftRight_eq_div_pow, Nat.shiftRight_eq_div_pow]

end Sys2Proof.Machine
end

section
/-! O17, O18, O19 and O42: FEED in TEXT mode, a unit with no lead pending, a lead and a trail
(spec/42_text_feed.md R110 to R123). -/

namespace Sys2Proof.Machine

theorem exec_feed (d : Elem) (s : State) : exec (.feed d) s = .next (feedEffect d s) := rfl

/-- With a lead pending every unit is its trail (R116). -/
theorem feedEffect_of_pend (t : Elem) {s : State} (hm : s.mode = .text) (hp : s.pend = true) :
    feedEffect t s = trail t s := by
  rw [feedEffect_text t s hm]
  rcases feedText_cases t s with ⟨-, h⟩ | ⟨hno, -⟩ | ⟨hno, -⟩
  · exact h
  · simp [hp] at hno
  · simp [hp] at hno

/-- A surrogate with no lead pending is a lead (R115). -/
theorem feedEffect_of_lead {u : Elem} {s : State} (hm : s.mode = .text) (hp : s.pend = false)
    (hu : isSurrogate u = true) : feedEffect u s = leadIn u s := by
  rw [feedEffect_text u s hm]
  rcases feedText_cases u s with ⟨hno, -⟩ | ⟨-, -, h⟩ | ⟨-, hno, -⟩
  · simp [hp] at hno
  · exact h
  · simp [hu] at hno

/-- Any other unit with no lead pending accumulates the bytes of its class (R112 to R114). -/
theorem feedEffect_of_plain {u : Elem} {s : State} (hm : s.mode = .text) (hp : s.pend = false)
    (hu : isSurrogate u = false) : feedEffect u s = accAll (plainBytes u) s := by
  rw [feedEffect_text u s hm]
  rcases feedText_cases u s with ⟨hno, -⟩ | ⟨-, hno, -⟩ | ⟨-, -, h⟩
  · simp [hp] at hno
  · simp [hu] at hno
  · exact h

/-- Settles O17: the unit's class says its bytes, which the spec's masks give as numbers. -/
theorem feedTextPlainUnit : Obligations.FeedTextPlainUnit := by
  intro u s hm hp
  have hfeed : u.toNat < 0xD800 ∨ 0xE000 ≤ u.toNat → exec (.feed u) s = .next (accAll (plainBytes u) s) := by
    intro hrange
    have hu : isSurrogate u = false := by
      rw [isSurrogate_eq_decide, decide_eq_false_iff_not]
      omega
    rw [exec_feed, feedEffect_of_plain hm hp hu]
  refine ⟨fun h => ?_, fun hlo hhi => ?_, fun hlo hrange => ?_⟩
  · rw [hfeed (by omega), plainBytes_eq, if_pos h, oneByte_eq_ofNat]
    rfl
  · rw [hfeed (by omega), plainBytes_eq, if_neg (by omega), if_pos hhi, twoBytes_eq_ofNat]
    rfl
  · rw [hfeed hrange, plainBytes_eq, if_neg (by omega), if_neg (by omega), threeBytes_eq_ofNat]
    rfl

/-- The latched bits are the unit's low ten, by mask or by width (R115). -/
theorem leadBits_eq_ofNat (u : Elem) : leadBits u = BitVec.ofNat 10 (u.toNat &&& 0x3FF) := by
  apply BitVec.eq_of_toNat_eq
  simp [leadBits, and_lowTen]

/-- Settles O18: the unit is a lead, and above 0xDC00 the surrogate range is the low surrogates'. -/
theorem feedTextLeadIsLatched : Obligations.FeedTextLeadIsLatched := by
  intro u s hm hp hlo hhi
  have hu : isSurrogate u = true := by simp [isSurrogate_eq_decide, hlo, hhi]
  have hinv : invLead u = decide (0xDC00 ≤ u.toNat) := by simp [invLead, isLowSurrogate_eq_decide, hhi]
  rw [exec_feed, feedEffect_of_lead hm hp hu, leadIn_eq, leadBits_eq_ofNat, hinv]

/-- `ACC` neither reads nor writes PEND and INV, so both may be written after the four bytes (R116, R117). -/
theorem trail_eq_accAll (t : Elem) (s : State) :
    trail t s
      = { accAll (fourBytes (pairCodePoint s.lead t)) s with
          pend := false, inv := s.inv || !isLowSurrogate t } := by
  rw [trail_eq, accAll_eq_withSums]
  rfl

/-- Settles O19: the code point fits its 21 bits, so the four bytes are those of the number. -/
theorem feedTextTrailCompletesPair : Obligations.FeedTextTrailCompletesPair := by
  intro t s hm hp cp
  have hcp : (pairCodePoint s.lead t).toNat = cp := pairCodePoint_toNat s.lead t
  refine ⟨hcp ▸ pairCodePoint_range s.lead t, ?_⟩
  rw [exec_feed, feedEffect_of_pend t hm hp, trail_eq_accAll, fourBytes_eq_ofNat, hcp, isLowSurrogate_eq_decide]
  simp only [accAll_cons, accAll_nil]

/-! The number and the range of the bytes. -/

theorem plainBytes_length (u : Elem) :
    (plainBytes u).length = if u.toNat < 0x80 then 1 else if u.toNat < 0x800 then 2 else 3 := by
  rw [plainBytes_eq]
  split_ifs <;> rfl

theorem fourBytes_length (cp : CodePoint) : (fourBytes cp).length = 4 := rfl

/-- The number of bytes by R110's table; the tests may stand in this order, since below 0x800 no unit is a surrogate. -/
theorem feedUnits_length_of_text (u : Elem) {s : State} (hm : s.mode = .text) :
    (feedUnits u s).length =
      if s.pend then 4
      else if u.toNat < 0x80 then 1
      else if u.toNat < 0x800 then 2
      else if 0xD800 ≤ u.toNat ∧ u.toNat < 0xE000 then 0
      else 3 := by
  cases hp : s.pend with
  | true => simp [feedUnits, hm, hp, fourBytes_length]
  | false =>
    cases hu : isSurrogate u with
    | true =>
      rw [feedUnits_of_lead hm hp hu]
      rw [isSurrogate_eq_decide, decide_eq_true_eq] at hu
      rw [if_neg nofun, if_neg (by omega), if_neg (by omega), if_pos hu, List.length_nil]
    | false =>
      rw [feedUnits_of_plain hm hp hu, plainBytes_length]
      rw [isSurrogate_eq_decide, decide_eq_false_iff_not] at hu
      simp [hu]

theorem plainBytes_le {u : Elem} {v : Byte} (h : v ∈ plainBytes u) : v.toNat ≤ 0xF4 := by
  rw [plainBytes_eq] at h
  split_ifs at h with hone htwo
  · simp only [oneByte_eq_ofNat, List.mem_singleton] at h
    subst h
    rw [BitVec.toNat_ofNat]
    omega
  · simp only [twoBytes_eq_div htwo, List.mem_cons, List.not_mem_nil, or_false] at h
    rcases h with rfl | rfl <;> rw [BitVec.toNat_ofNat] <;> omega
  · simp only [threeBytes_eq_div, List.mem_cons, List.not_mem_nil, or_false] at h
    rcases h with rfl | rfl | rfl <;> rw [BitVec.toNat_ofNat] <;> omega

/-- The first of a pair's bytes is at most 0xF4, since the code point is at most 0x10FFFF (R117, R123). -/
theorem fourBytes_pair_le {lead : LeadBits} {t : Elem} {v : Byte} (h : v ∈ fourBytes (pairCodePoint lead t)) :
    v.toNat ≤ 0xF4 := by
  obtain ⟨-, hmax⟩ := pairCodePoint_range lead t
  simp only [fourBytes_eq_div, List.mem_cons, List.not_mem_nil, or_false] at h
  rcases h with rfl | rfl | rfl | rfl <;> rw [BitVec.toNat_ofNat] <;> omega

theorem feedUnits_le_of_text {u : Elem} {s : State} (hm : s.mode = .text) {v : Byte} (h : v ∈ feedUnits u s) :
    v.toNat ≤ 0xF4 := by
  simp only [feedUnits, hm] at h
  split_ifs at h with hp hu
  · exact fourBytes_pair_le h
  · cases h
  · exact plainBytes_le h

/-- Settles O42: the bytes are those that `feedUnits` lists, and the sums are theirs. -/
theorem textFeedUnitCounts : Obligations.TextFeedUnitCounts := by
  intro u s hm
  have hsums : sumsOf (feedEffect u s) = sumsOf (accAll (feedUnits u s) s) := by
    rw [sumsOf_feedEffect, sumsOf_accAll]
  obtain ⟨ha, hb, hcnt⟩ := sumsOf_eq_iff.1 hsums
  exact ⟨feedUnits u s, feedEffect u s, exec_feed u s, ha, hb, hcnt, fun _ => feedUnits_le_of_text hm,
    feedUnits_length_of_text u hm⟩

end Sys2Proof.Machine
end

section
/-! O21: FINISH with a lead pending (spec/42_text_feed.md R117, R119). -/

namespace Sys2Proof.Machine

/-- The flush is a trail 0x0000 that sets INV (R119). -/
theorem flush_eq_accAll (s : State) :
    flush s = { accAll (fourBytes (pairCodePoint s.lead 0#16)) s with pend := false, inv := true } := by
  rw [flush_eq, emit4_eq, accAll_eq_withSums]

/-- FINISH of a pending lead is FINISH once it is flushed (R90, R119). -/
theorem finishMessage_flush {s : State} (hp : s.pend = true) : finishMessage s = finishMessage (flush s) := by
  have hflush : flushIfPending s = flush s := by simp [flushIfPending, hp]
  rw [finishMessage_of_not_pend (flush_pend s), finishMessage, hflush]

/-- Settles O21: both FINISHes are that of the flushed state; the example is run. -/
theorem finishFlushesPendingLead : Obligations.FinishFlushesPendingLead := by
  refine ⟨fun s hm hp => ?_, _, rfl, by decide, by decide⟩
  intro cp
  have hcp : (pairCodePoint s.lead 0#16).toNat = cp := pairCodePoint_toNat s.lead 0#16
  have hopen : (flush s).mode ≠ .idle := by rwa [flush_mode]
  rw [exec_finish_open hm, finishMessage_flush hp, ← exec_finish_open hopen, flush_eq_accAll, fourBytes_eq_ofNat, hcp]
  simp only [accAll_cons, accAll_nil]

end Sys2Proof.Machine
end

section
/-! O40: a TEXT message and the BYTES message of its bytes (spec/42_text_feed.md R121). -/

namespace Sys2Proof.Machine

/-- A byte put in an element is the byte that BYTES mode accumulates (R101). -/
theorem byteOperand_setWidth (v : Byte) : byteOperand (v.setWidth 16) = v := by
  apply BitVec.eq_of_toNat_eq
  have := v.isLt
  rw [byteOperand_eq_ofNat, BitVec.toNat_ofNat, BitVec.toNat_setWidth]
  omega

theorem messageUnits_bytes_of_bytes (vs : List Byte) : messageUnits .bytes (vs.map (BitVec.setWidth 16)) = vs := by
  simp [messageUnits, Function.comp_def, byteOperand_setWidth]

/-- An ASCII unit has the same effect in TEXT mode with no lead pending as in BYTES mode (R112, R121). -/
theorem feedEffect_text_of_ascii {u : Elem} (hu : u.toNat < 0x80) {s : State} (hm : s.mode = .bytes)
    (hp : s.pend = false) : feedEffect u { s with mode := .text } = { feedEffect u s with mode := .text } := by
  have hplain : isSurrogate u = false := by
    rw [isSurrogate_eq_decide, decide_eq_false_iff_not]
    omega
  have hone : plainBytes u = [byteOperand u] := by
    rw [plainBytes_eq, if_pos hu, oneByte_eq_ofNat, byteOperand_eq_ofNat, Nat.mod_eq_of_lt (by omega)]
  have hinside : outsideByteRange u = false := by
    rw [outsideByteRange_eq_decide, decide_eq_false_iff_not]
    omega
  rw [feedEffect_of_plain (s := { s with mode := .text }) rfl hp hplain, hone, accAll_eq_withSums,
    feedEffect_bytes u s hm, feedBytes_eq, hinside, Bool.or_false]
  rfl

theorem feedAll_text_of_ascii {us : List Elem} (hus : ∀ u ∈ us, u.toNat < 0x80) {s : State} (hm : s.mode = .bytes)
    (hp : s.pend = false) : feedAll us { s with mode := .text } = { feedAll us s with mode := .text } := by
  induction us generalizing s with
  | nil => rfl
  | cons u us ih =>
    obtain ⟨hu, hrest⟩ := List.forall_mem_cons.1 hus
    have hpend : (feedEffect u s).pend = false := by simp [feedEffect_pend, hm, hp]
    rw [feedAll_cons, feedEffect_text_of_ascii hu hm hp, ih hrest ((feedEffect_mode u s).trans hm) hpend,
      feedAll_cons]

/-- Settles O40: both RESULTs are the Adler-32 of the same bytes; of ASCII data the FEEDs differ in MODE alone, which
FINISH overwrites. -/
theorem textAgreesWithItsBytes : Obligations.TextAgreesWithItsBytes := by
  refine ⟨fun us s => ?_, fun us s hus => ?_⟩
  · obtain ⟨t, ht, htext⟩ := runEvents_feedEvents_result (k := .text) rfl us s
    obtain ⟨u, hu, hbytes⟩ :=
      runEvents_feedEvents_result (k := .bytes) rfl ((textUnits us).map (BitVec.setWidth 16)) s
    rw [messageUnits_bytes_of_bytes] at hbytes
    exact ⟨t, u, ht, hu, htext.trans hbytes.symm⟩
  · have hfed : feedAll us (startMessage .text s) = { feedAll us (startMessage .bytes s) with mode := .text } :=
      feedAll_text_of_ascii hus (s := startMessage .bytes s) rfl rfl
    have htext := runEvents_messageEvents_feedEvents (m := .text) rfl us s
    rw [hfed, finishMessage_setMode] at htext
    exact ⟨_, htext, runEvents_messageEvents_feedEvents rfl us s⟩

end Sys2Proof.Machine
end

section
/-! O41: well-formed UTF-16 and UTF-8 (spec/42_text_feed.md R122, spec/93_implementation_defined.md G1, G2). -/

namespace Sys2Proof.Machine

/-- The code of a pair puts the low ten bits of both units side by side (R117). -/
theorem pairCodePoint_leadBits_toNat (u t : Elem) :
    (pairCodePoint (leadBits u) t).toNat = 0x10000 + u.toNat % 1024 * 1024 + t.toNat % 1024 := by
  rw [pairCodePoint_toNat, leadBits, BitVec.toNat_setWidth, and_lowTen, Nat.shiftLeft_eq]

/-- The two forms of a character in UTF-16 (G1, G2): a unit that is no surrogate, with the character's code, or a lead and a
trail, whose pair has the character's code. -/
theorem utf16OfChar_cases (c : Char) :
    (∃ u, utf16OfChar c = [u] ∧ isSurrogate u = false ∧ u.toNat = c.toNat) ∨
    (∃ u t, utf16OfChar c = [u, t] ∧ isSurrogate u = true ∧ isLowSurrogate u = false ∧ isLowSurrogate t = true ∧
      (pairCodePoint (leadBits u) t).toNat = c.toNat) := by
  have hvalid : c.toNat < 0xD800 ∨ 0xDFFF < c.toNat ∧ c.toNat < 0x110000 := c.valid
  unfold utf16OfChar
  split
  next hc =>
    refine .inl ⟨_, rfl, ?_, ?_⟩
    · rw [isSurrogate_eq_decide, decide_eq_false_iff_not, BitVec.toNat_ofNat]
      omega
    · rw [BitVec.toNat_ofNat]
      omega
  next hc =>
    refine .inr ⟨_, _, rfl, ?_, ?_, ?_, ?_⟩
    · rw [isSurrogate_eq_decide, decide_eq_true_eq, BitVec.toNat_ofNat]
      omega
    · rw [isLowSurrogate_eq_decide, decide_eq_false_iff_not, BitVec.toNat_ofNat]
      omega
    · rw [isLowSurrogate_eq_decide, decide_eq_true_eq, BitVec.toNat_ofNat]
      omega
    · rw [pairCodePoint_leadBits_toNat, BitVec.toNat_ofNat, BitVec.toNat_ofNat]
      omega

/-- Every number outside the surrogate range and below 0x110000 is a character's code. -/
theorem charOfNat_toNat {n : Nat} (h : n < 0xD800 ∨ 0xDFFF < n ∧ n < 0x110000) : (Char.ofNat n).toNat = n := by
  rw [Char.toNat_ofNat, if_pos h]

theorem exists_char_of_unit {u : Elem} (hu : isSurrogate u = false) : ∃ c, utf16OfChar c = [u] := by
  have hlt := u.isLt
  rw [isSurrogate_eq_decide, decide_eq_false_iff_not] at hu
  refine ⟨Char.ofNat u.toNat, ?_⟩
  rw [utf16OfChar, charOfNat_toNat (by omega), if_pos hlt, BitVec.ofNat_toNat, BitVec.setWidth_eq]

/-- The character of a pair is the one whose code the pair makes. -/
theorem exists_char_of_pair {u t : Elem} (hu : isSurrogate u = true) (hlead : isLowSurrogate u = false)
    (ht : isLowSurrogate t = true) : ∃ c, utf16OfChar c = [u, t] := by
  rw [isSurrogate_eq_decide, decide_eq_true_eq] at hu
  rw [isLowSurrogate_eq_decide, decide_eq_false_iff_not] at hlead
  rw [isLowSurrogate_eq_decide, decide_eq_true_eq] at ht
  have hcode := pairCodePoint_leadBits_toNat u t
  generalize (pairCodePoint (leadBits u) t).toNat = n at hcode
  have hfirst : 0xD800 + (n - 0x10000) / 1024 = u.toNat := by omega
  have hsecond : 0xDC00 + (n - 0x10000) % 1024 = t.toNat := by omega
  refine ⟨Char.ofNat n, ?_⟩
  rw [utf16OfChar, charOfNat_toNat (by omega), if_neg (by omega), hfirst, hsecond]
  simp only [BitVec.ofNat_toNat, BitVec.setWidth_eq]

/-! The functions on whole strings, unit by unit and pair by pair. -/

theorem wellFormedUtf16_unit {u : Elem} (hu : isSurrogate u = false) (us : List Elem) :
    wellFormedUtf16 (u :: us) = wellFormedUtf16 us := by
  cases us <;> simp [wellFormedUtf16, hu]

theorem wellFormedUtf16_pair {u t : Elem} (hu : isSurrogate u = true) (us : List Elem) :
    wellFormedUtf16 (u :: t :: us) = (!isLowSurrogate u && isLowSurrogate t && wellFormedUtf16 us) := by
  rw [wellFormedUtf16, if_pos hu]

theorem textUnits_unit {u : Elem} (hu : isSurrogate u = false) (us : List Elem) :
    textUnits (u :: us) = plainBytes u ++ textUnits us := by
  cases us <;> simp [textUnits, hu]

theorem textUnits_pair {u t : Elem} (hu : isSurrogate u = true) (us : List Elem) :
    textUnits (u :: t :: us) = fourBytes (pairCodePoint (leadBits u) t) ++ textUnits us := by
  rw [textUnits, if_pos hu]

theorem utf16_cons (c : Char) (cs : List Char) : utf16 (c :: cs) = utf16OfChar c ++ utf16 cs := rfl

theorem utf8_cons (c : Char) (cs : List Char) :
    utf8 (c :: cs) = (String.utf8EncodeChar c).map UInt8.toBitVec ++ utf8 cs := rfl

/-- The caller contract of R118 is well-formedness. -/
theorem textViolation_eq_not_wellFormedUtf16 (us : List Elem) : textViolation us = !wellFormedUtf16 us := by
  induction us using textViolation.induct with
  | case1 => rfl
  | case2 u => simp [textViolation, wellFormedUtf16]
  | case3 u t rest hu ih => simp [textViolation, wellFormedUtf16, hu, ih, Bool.or_assoc]
  | case4 u t rest hu ih => simp [textViolation, wellFormedUtf16, hu, ih]

theorem wellFormedUtf16_utf16 (cs : List Char) : wellFormedUtf16 (utf16 cs) = true := by
  induction cs with
  | nil => rfl
  | cons c cs ih =>
    rw [utf16_cons]
    rcases utf16OfChar_cases c with ⟨u, hc, hu, -⟩ | ⟨u, t, hc, hu, hlead, ht, -⟩
    · rw [hc, List.singleton_append, wellFormedUtf16_unit hu, ih]
    · simp [hc, wellFormedUtf16_pair hu, hlead, ht, ih]

/-- Each unit or pair of a well-formed sequence is some character's. -/
theorem exists_utf16_of_wellFormedUtf16 {us : List Elem} (h : wellFormedUtf16 us = true) : ∃ cs, utf16 cs = us := by
  induction us using wellFormedUtf16.induct with
  | case1 => exact ⟨[], rfl⟩
  | case2 u =>
    obtain ⟨c, hc⟩ := exists_char_of_unit (u := u) (by simpa [wellFormedUtf16] using h)
    exact ⟨[c], by rw [utf16_cons, hc]; rfl⟩
  | case3 u t rest hu ih =>
    simp only [wellFormedUtf16_pair hu, Bool.and_eq_true, Bool.not_eq_true'] at h
    obtain ⟨⟨hlead, ht⟩, hrest⟩ := h
    obtain ⟨c, hc⟩ := exists_char_of_pair hu hlead ht
    obtain ⟨cs, rfl⟩ := ih hrest
    exact ⟨c :: cs, by rw [utf16_cons, hc]; rfl⟩
  | case4 u t rest hu ih =>
    rw [Bool.not_eq_true] at hu
    rw [wellFormedUtf16_unit hu] at h
    obtain ⟨c, hc⟩ := exists_char_of_unit hu
    obtain ⟨cs, hcs⟩ := ih h
    exact ⟨c :: cs, by rw [utf16_cons, hc, hcs]; rfl⟩

/-! The encoder's bytes are those of Lean's encoder. -/

/-- The cases of Lean's own encoder, by the character's code. -/
theorem utf8EncodeChar_map_toBitVec (c : Char) :
    (String.utf8EncodeChar c).map UInt8.toBitVec =
      if c.toNat ≤ 0x7F then [BitVec.ofNat 8 c.toNat]
      else if c.toNat ≤ 0x7FF then [BitVec.ofNat 8 (c.toNat / 64 % 32 + 192), BitVec.ofNat 8 (c.toNat % 64 + 128)]
      else if c.toNat ≤ 0xFFFF then
        [BitVec.ofNat 8 (c.toNat / 4096 % 16 + 224), BitVec.ofNat 8 (c.toNat / 64 % 64 + 128),
          BitVec.ofNat 8 (c.toNat % 64 + 128)]
      else
        [BitVec.ofNat 8 (c.toNat / 262144 % 8 + 240), BitVec.ofNat 8 (c.toNat / 4096 % 64 + 128),
          BitVec.ofNat 8 (c.toNat / 64 % 64 + 128), BitVec.ofNat 8 (c.toNat % 64 + 128)] := by
  simp only [String.utf8EncodeChar, apply_ite (List.map UInt8.toBitVec)]
  rfl

theorem plainBytes_eq_utf8 {u : Elem} {c : Char} (h : u.toNat = c.toNat) :
    plainBytes u = (String.utf8EncodeChar c).map UInt8.toBitVec := by
  have hlt := u.isLt
  rw [utf8EncodeChar_map_toBitVec, plainBytes_eq, ← h]
  by_cases hone : u.toNat < 0x80
  · rw [if_pos hone, if_pos (by omega), oneByte_eq_ofNat]
  by_cases htwo : u.toNat < 0x800
  · rw [if_neg hone, if_pos htwo, if_neg (by omega), if_pos (by omega), twoBytes_eq_div htwo]
  · rw [if_neg hone, if_neg htwo, if_neg (by omega), if_neg (by omega), if_pos (by omega), threeBytes_eq_div]

theorem fourBytes_eq_utf8 {cp : CodePoint} {c : Char} (h : cp.toNat = c.toNat) (hbig : 0x10000 ≤ cp.toNat) :
    fourBytes cp = (String.utf8EncodeChar c).map UInt8.toBitVec := by
  rw [utf8EncodeChar_map_toBitVec, fourBytes_eq_div, ← h, if_neg (by omega), if_neg (by omega), if_neg (by omega)]

/-- R122: the encoder makes UTF-8 of UTF-16. -/
theorem textUnits_utf16 (cs : List Char) : textUnits (utf16 cs) = utf8 cs := by
  induction cs with
  | nil => rfl
  | cons c cs ih =>
    rw [utf16_cons, utf8_cons]
    rcases utf16OfChar_cases c with ⟨u, hc, hu, hcode⟩ | ⟨u, t, hc, hu, -, -, hcode⟩
    · rw [hc, List.singleton_append, textUnits_unit hu, plainBytes_eq_utf8 hcode, ih]
    · obtain ⟨hbig, -⟩ := pairCodePoint_range (leadBits u) t
      rw [hc, List.cons_append, List.singleton_append, textUnits_pair hu, fourBytes_eq_utf8 hcode hbig, ih]

/-- Settles O41: the units of a string's UTF-16 form are its UTF-8 bytes, and that form breaks no part of the contract. -/
theorem wellFormedTextIsUtf8 : Obligations.WellFormedTextIsUtf8 := by
  refine ⟨fun us => ⟨exists_utf16_of_wellFormedUtf16, ?_⟩, fun cs s => ?_⟩
  · rintro ⟨cs, rfl⟩
    exact wellFormedUtf16_utf16 cs
  · refine ⟨_, runEvents_messageEvents_feedEvents rfl _ s, ?_, ?_⟩
    · rw [finishMessage_result_eq_adler32 rfl, messageUnits, textUnits_utf16]
    · rw [finishMessage_inv_eq_messageViolation rfl, messageViolation, textViolation_eq_not_wellFormedUtf16,
        wellFormedUtf16_utf16, Bool.not_true]

end Sys2Proof.Machine
end

section
/-! O5, O6 and O14: a refused command sets ILL alone, and nothing stops the machine (spec/60_exceptions.md R130, R132, R133). -/

namespace Sys2Proof.Machine

/-- A step on a refused word (R133). -/
theorem step_of_refused {s : State} {w : Word} {rest : List HostEvent} {r : RefuseReason}
    (hin : s.input = .command w :: rest) (hd : decode w s.mode = .refused r) :
    step s = .next (withInput rest (setIll s)) := by
  rw [step_of_input hin, eventEffect_refused hd]

/-- Of the events a step can take, a reset alone clears ILL (R29). -/
theorem step_keeps_ill {s t : State} (hill : s.ill = true) (hreset : ∀ rest, s.input ≠ .reset :: rest)
    (h : step s = .next t) : t.ill = true := by
  rw [illFlagRule s t h]
  split
  · next rest hin => exact absurd hin (hreset rest)
  · split
    · rfl
    · exact hill
  · exact hill

/-- Settles O5: a refused word's step, ILL's rule with no reset in it, and the rule's example run from reset. -/
theorem refusedCommandSetsOnlyIll : Obligations.RefusedCommandSetsOnlyIll :=
  ⟨fun _ _ _ _ => step_of_refused, fun _ _ => step_keeps_ill, _, _, rfl, by decide, rfl, by decide, by decide⟩

/-- Every command answers its effect. -/
theorem exec_eq_next_effect (i : Instr) (s : State) : exec i s = .next (effect i s) := by
  cases i <;> rfl

theorem step_has_next (s : State) : ∃ t, step s = .next t := by
  cases hin : s.input with
  | nil => exact ⟨s, step_of_no_input hin⟩
  | cons e rest => exact ⟨withInput rest (eventEffect e s), step_of_input hin⟩

/-- Settles O6: a step answers its event's effect, and a command its own. -/
theorem machineNeverStops : Obligations.MachineNeverStops :=
  ⟨step_has_next, fun i s => ⟨effect i s, exec_eq_next_effect i s⟩⟩

/-- With no message open, decoding refuses the words of the commands that need one (R66, R132). -/
theorem decode_encode_of_noMessage {i : Instr} {m : Mode} (hn : i.needsMessage = true) (hm : m = .idle) :
    decode (encode i) m = .refused .noMessage := by
  rw [decode_eq_inMode, decodeWord_encode, inMode_accepted, if_pos ⟨hn, hm⟩]

/-- Settles O14: FEED and FINISH are the commands that need a message. -/
theorem noMessageTurnsAway : Obligations.NoMessageTurnsAway :=
  fun _ _ hm => ⟨exec_of_noMessage rfl hm, exec_of_noMessage rfl hm,
    decode_encode_of_noMessage rfl hm, decode_encode_of_noMessage rfl hm⟩

end Sys2Proof.Machine
end

section
/-! O48 and O49: a command in progress, which lands after CMD_LATENCY edges or is lost to a reset
(spec/30_encoding.md R56, spec/70_reset_and_hazards.md R150, R152, R158). -/

namespace Sys2Proof.Machine

/-- The shell with `n` edges to go until the command `w` has landed on `h`. -/
def commandInProgress (w : Word) (n : Nat) (h : Shell) : Shell :=
  match n with
  | 0 => completeCommand w h
  | k + 1 => { h with inFlight := some ⟨w, k⟩ }

/-- An accepted command is in progress for its CMD_LATENCY (R158). -/
theorem acceptAtEdge_eq_commandInProgress (p : Config.OpenParams) (w : Word) (h : Shell) :
    acceptAtEdge p w h = commandInProgress w (p.cmdLatency h.accepted) { h with accepted := h.accepted + 1 } := by
  unfold acceptAtEdge
  cases p.cmdLatency h.accepted <;> rfl

/-- Each edge, whatever the pins show, brings the command one edge nearer to its landing (R56). -/
theorem clockEdge_commandInProgress_succ (p : Config.OpenParams) (pins : Pins) (w : Word) (k : Nat) (h : Shell) :
    clockEdge p pins (commandInProgress w (k + 1) h) = commandInProgress w k h := by
  cases k <;> rfl

theorem shellRun_cons (p : Config.OpenParams) (x : Stimulus) (xs : List Stimulus) (h : Shell) :
    shellRun p (x :: xs) h = shellRun p xs (shellStep p x h) := rfl

/-- Edges without reset count a command in progress down by their number (R158). -/
theorem shellRun_commandInProgress (p : Config.OpenParams) (w : Word) (k : Nat) (h : Shell) {later : List Pins}
    (hrst : ∀ q ∈ later, resetAsserted p.resetStyle q.rst = false) :
    shellRun p (later.map .edge) (commandInProgress w (k + later.length) h) = commandInProgress w k h := by
  induction later with
  | nil => rfl
  | cons q later ih =>
    obtain ⟨hq, hlater⟩ := List.forall_mem_cons.1 hrst
    rw [List.map_cons, shellRun_cons, shellStep_edge p _ hq, List.length_cons, ← Nat.add_assoc,
      clockEdge_commandInProgress_succ, ih hlater]

/-- The outputs of a busy block are not to be sampled (R155). -/
theorem sampledOutputs_of_busy {h : Shell} (hbusy : cmdReady h = false) : sampledOutputs h = none := by
  simp [sampledOutputs, hbusy]

/-- Settles O48: the acceptance puts the command in progress for CMD_LATENCY edges, the later edges count it down, and
what is left is none (it has landed) or some (the block is busy). -/
theorem blockBecomesReadyAgain : Obligations.BlockBecomesReadyAgain := by
  intro p pins later h w hready hvalid hcmd hrst hlater hle
  obtain ⟨k, hk⟩ := Nat.exists_eq_add_of_le' hle
  have hrun : shellRun p (.edge pins :: later.map .edge) h
      = commandInProgress w k { h with accepted := h.accepted + 1 } := by
    rw [shellRun_cons, shellStep_edge p h hrst, clockEdge_of_ready p pins hready, if_pos hvalid, hcmd,
      acceptAtEdge_eq_commandInProgress, hk, shellRun_commandInProgress p w k _ hlater]
  rw [hrun, hk]
  cases k with
  | zero =>
    rw [if_pos (Nat.zero_add _).symm]
    exact ⟨rfl, takeEvent_eq (.command w) h.block⟩
  | succ k =>
    rw [if_neg (by omega)]
    exact ⟨rfl, rfl, sampledOutputs_of_busy rfl⟩

/-- An edge at which reset is asserted, in either style (R152). -/
theorem shellStep_edge_of_reset (p : Config.OpenParams) {pins : Pins} (h : Shell)
    (hrst : resetAsserted p.resetStyle pins.rst = true) : shellStep p (.edge pins) h = shellReset h := by
  simp [shellStep, hrst]

/-- A level of `rst` between edges that asserts an asynchronous reset (R152). -/
theorem shellStep_rstLevel_of_reset (p : Config.OpenParams) {level : Bool} (h : Shell)
    (hasync : p.resetStyle.synchronous = false) (hrst : resetAsserted p.resetStyle level = true) :
    shellStep p (.rstLevel level) h = shellReset h := by
  simp [shellStep, hasync, hrst]

/-- Settles O49: both stimuli reset the shell, and `shellReset` writes the values of R35 and drops the command. -/
theorem resetLosesCommandInProgress : Obligations.ResetLosesCommandInProgress :=
  fun p h => ⟨fun _ => shellStep_edge_of_reset p h, fun _ => shellStep_rstLevel_of_reset p h⟩

end Sys2Proof.Machine
end
